-- ==== Sys2Proof/Word.lean ====
section
/-! DEFINITION. The widths of the block (spec 00_scope.md R7, R8). Every value is unsigned. -/

namespace Sys2Proof

/-- A buffer cell, a frame byte or a byte of text. -/
abbrev Byte := BitVec 8

/-- A segment pattern (`SEG_W` = 8). Spec 30_encoding.md R81. -/
abbrev SegmentPattern := BitVec 8

/-- A command code (`CMD_W` = 3). Spec 30_encoding.md R87. -/
abbrev CommandCode := BitVec 3

/-- A grid mask (`GRID_W` = 9). Spec 30_encoding.md R86. -/
abbrev GridMask := BitVec 9

/-- A control word (`WORD_W` = 20). Spec 30_encoding.md R88. -/
abbrev ControlWord := BitVec 20

/-- A frame as one 24-bit value (`FRAME_BYTES` = 3). Spec 30_encoding.md R91. -/
abbrev FrameValue := BitVec 24

/-- A request word. Spec 30_encoding.md R95. -/
abbrev RequestWord := BitVec 16

/-- A `u32` field of the configuration record. Spec 10_state.md R27. -/
abbrev U32 := BitVec 32

/-- A GridIndex that is in range, 0 to 8 (`N_GRID` = 9). Spec 30_encoding.md R85. A `GRID` field is a
`BitVec 4`; it becomes a `GridIndex` only through a range check. -/
abbrev GridIndex := Fin 9

/-- The three bytes of a frame, in the order they go to the sink. Spec 20_memory.md R62. -/
structure Frame where
  b0 : Byte
  b1 : Byte
  b2 : Byte
deriving DecidableEq, Repr

end Sys2Proof
end

