-- ==== Sys2Proof/Config.lean ====
section
/-! DEFINITION. What one implementation of the block fixes: the parameters of spec 00_scope.md R7 as
plain data, the configuration record of 10_state.md R27, and the uninterpreted constants that stand
for the points the spec leaves OPEN. A state carries its parameters (log 7), so a claim about every
state holds for every value of them. -/

namespace Sys2Proof

/-- Where the 4 padding bits stand in the 24-bit frame. Spec 30_encoding.md R91 (`low`), R93 (`high`). -/
inductive PadPosition where
  | low
  | high
deriving DecidableEq, Repr

/-- The closed set of status codes. Spec 30_encoding.md R100. `invalidSegment` is reserved and never
raised (60_exceptions.md R264). -/
inductive Status where
  | ok
  | invalidParam
  | notInitialized
  | invalidGrid
  | invalidSegment
  | hardwareError
deriving DecidableEq, Repr

/-- The numbers the status names take on the port, parameter `STATUS_NUM`. Spec 30_encoding.md R100. -/
structure StatusNum where
  ok : Nat
  invalidParam : Nat
  notInitialized : Nat
  invalidGrid : Nat
  invalidSegment : Nat
  hardwareError : Nat
deriving DecidableEq, Repr

/-- The thirteen symbols of the segment encoder. Spec 30_encoding.md R80. -/
inductive Symbol where
  | d0 | d1 | d2 | d3 | d4 | d5 | d6 | d7 | d8 | d9
  | dot
  | dash
  | blank
deriving DecidableEq, Repr

/-- The entries of `SEG_LUT` that an implementation may choose. `BLANK` = 0x00 and `DOT` = 0x80 hold
for every value of the parameter (spec 30_encoding.md R83, 92_eei_decisions.md D3), so they are no
fields. -/
structure SegLut where
  d0 : SegmentPattern
  d1 : SegmentPattern
  d2 : SegmentPattern
  d3 : SegmentPattern
  d4 : SegmentPattern
  d5 : SegmentPattern
  d6 : SegmentPattern
  d7 : SegmentPattern
  d8 : SegmentPattern
  d9 : SegmentPattern
  dash : SegmentPattern
deriving DecidableEq, Repr

/-- The segments of a digit position. Spec 30_encoding.md R81. -/
inductive Segment where
  | a | b | c | d | e | f | g
  | dp
deriving DecidableEq, Repr

/-- Which pattern bit lights which of the segments A to G, parameter `SEG_BIT`. The decimal point is
bit 7 by the source, so it is no field. Spec 30_encoding.md R81. -/
structure SegBit where
  a : Fin 8
  b : Fin 8
  c : Fin 8
  d : Fin 8
  e : Fin 8
  f : Fin 8
  g : Fin 8
deriving DecidableEq, Repr

/-- A line identity, spec 10_state.md R27: opaque, so nothing computes on it and only equality is
ever asked. The number is a label (log 12). -/
structure PinId where
  label : Nat
deriving DecidableEq, Repr, Inhabited

/-- The configuration record DriverConfig. Spec 10_state.md R27, 30_encoding.md R103. -/
structure DriverConfig where
  clockHz : U32
  pinData : PinId
  pinClk : PinId
  pinLatch : PinId
  settleUs : U32
deriving DecidableEq, Repr

/-- `TRANSPORT_ACCEPTS` as plain data (log 11): a predicate on configurations, written from bounds on the
two numbers, equality of line identities, negation and conjunction. `unspecified n` is a predicate of which
nothing is known, so a claim about every state quantifies over the predicate, as 92_eei_decisions.md D23
asks. Spec 00_scope.md R7, 44_lifecycle.md R230. -/
inductive TransportOracle where
  | anything
  | clockAtMost (hz : U32)
  | settleAtMost (us : U32)
  | pinDataIs (pin : PinId)
  | pinClkIs (pin : PinId)
  | pinLatchIs (pin : PinId)
  | not (o : TransportOracle)
  | both (o o' : TransportOracle)
  | unspecified (n : Nat)
deriving DecidableEq, Repr

/-- `SPI_MODE`, clock polarity and phase of the excluded transport. No rule of the block reads it.
Spec 41_transport.md R144, log 22. -/
structure SpiMode where
  cpol : Bool
  cpha : Bool
deriving DecidableEq, Repr, Inhabited

/-- The parameters of spec 00_scope.md R7 that do not have one value only. The fixed widths are in
Word.lean and the fixed delays in Machine/Defaults.lean. -/
structure Params where
  framePad : PadPosition
  segBit : SegBit
  segLut : SegLut
  statusNum : StatusNum
  defaultPinData : PinId
  defaultPinClk : PinId
  defaultPinLatch : PinId
  transport : TransportOracle
  concurrentMutator : Bool
  spiMode : SpiMode
deriving DecidableEq, Repr

/-- `DEFAULT_PIN_DATA`, OPEN. Spec 10_state.md R29, 92_eei_decisions.md D23, log 12. -/
opaque Config.defaultPinData : PinId

/-- `DEFAULT_PIN_CLK`, OPEN. Spec 10_state.md R29, 92_eei_decisions.md D23, log 12. -/
opaque Config.defaultPinClk : PinId

/-- `DEFAULT_PIN_LATCH`, OPEN. Spec 10_state.md R29, 92_eei_decisions.md D23, log 12. -/
opaque Config.defaultPinLatch : PinId

/-- Uninterpreted predicates, for the OPEN oracle `TRANSPORT_ACCEPTS`. Spec 92_eei_decisions.md D23, log 11. -/
opaque Config.transportTakes : Nat → DriverConfig → Bool

/-- `SPI_MODE`, OPEN. Spec 41_transport.md R144, 92_eei_decisions.md D36, log 22. -/
opaque Config.spiMode : SpiMode

/-- The free value of `CHIP_OUT` at draw `n`: what the chip's outputs hold when no frame of this block
determines them. Spec 93_implementation_defined.md I18, log 15. -/
opaque Config.unknownChipOut : Nat → ControlWord

end Sys2Proof
end

