-- ==== Sys2Proof/Machine/Datapath.lean ====
section
/-! DEFINITION. The combinational functions of spec 40_datapath.md: grid selector, packer, framer,
and their inverses (30_encoding.md R94). They read and write no state. -/

namespace Sys2Proof

/-- The range check of a 4-bit `GRID` operand. Spec 30_encoding.md R85: 9 to 15 are an error, never
clamped or wrapped. -/
def gridOfField (g : BitVec 4) : Option GridIndex :=
  if h : g.toNat < 9 then some ⟨g.toNat, h⟩ else none

/-- `MASK(g) = 1 << (8 - g)`. Spec 30_encoding.md R86. -/
def gridMask (g : GridIndex) : GridMask := 1#9 <<< (8 - g.val)

/-- `SELECT(g)`; none is `INVALID_GRID`. Spec 40_datapath.md R121. -/
def selectGrid (g : BitVec 4) : Option GridMask := (gridOfField g).map gridMask

/-- `PACK(cmd, mask, seg)`. Spec 40_datapath.md R122, 30_encoding.md R89. -/
def packWord (cmd : CommandCode) (mask : GridMask) (seg : SegmentPattern) : ControlWord :=
  (cmd.setWidth 20 <<< 17) ||| (mask.setWidth 20 <<< 8) ||| seg.setWidth 20

/-- The 24-bit frame value of a control word. Spec 30_encoding.md R91 (`low`), R93 (`high`). -/
def frameValue (pad : PadPosition) (w : ControlWord) : FrameValue :=
  match pad with
  | .low => w.setWidth 24 <<< 4
  | .high => w.setWidth 24

/-- Byte 0 is bits 23..16, byte 1 bits 15..8, byte 2 bits 7..0. Spec 20_memory.md R62. -/
def splitFrame (f : FrameValue) : Frame :=
  { b0 := f.extractLsb' 16 8, b1 := f.extractLsb' 8 8, b2 := f.extractLsb' 0 8 }

/-- `FRAME(W)`. Spec 40_datapath.md R123. -/
def frameBytes (pad : PadPosition) (w : ControlWord) : Frame := splitFrame (frameValue pad w)

/-- `PACKFRAME(cmd, mask, seg)`. Spec 40_datapath.md R124. -/
def packFrame (pad : PadPosition) (cmd : CommandCode) (mask : GridMask) (seg : SegmentPattern) : Frame :=
  frameBytes pad (packWord cmd mask seg)

/-- The frame value `b0 << 16 | b1 << 8 | b2`. Spec 30_encoding.md R94. -/
def joinFrame (f : Frame) : FrameValue :=
  (f.b0.setWidth 24 <<< 16) ||| (f.b1.setWidth 24 <<< 8) ||| f.b2.setWidth 24

/-- The control word a frame carries. Spec 30_encoding.md R94, 40_datapath.md R123. -/
def unframe (pad : PadPosition) (f : Frame) : ControlWord :=
  match pad with
  | .low => (joinFrame f).extractLsb' 4 20
  | .high => (joinFrame f).extractLsb' 0 20

/-- The grid of a one-hot mask; none for any other mask. Spec 30_encoding.md R94. -/
def gridOfMask (m : GridMask) : Option GridIndex :=
  match m.toNat with
  | 0x100 => some 0
  | 0x080 => some 1
  | 0x040 => some 2
  | 0x020 => some 3
  | 0x010 => some 4
  | 0x008 => some 5
  | 0x004 => some 6
  | 0x002 => some 7
  | 0x001 => some 8
  | _ => none

/-- The `CMD` field of a control word. Spec 30_encoding.md R88. -/
def wordCmd (w : ControlWord) : CommandCode := w.extractLsb' 17 3

/-- The `GRID` field of a control word. Spec 30_encoding.md R88. -/
def wordMask (w : ControlWord) : GridMask := w.extractLsb' 8 9

/-- The `SEG` field of a control word. Spec 30_encoding.md R88. -/
def wordSeg (w : ControlWord) : SegmentPattern := w.extractLsb' 0 8

/-- The three classes of control words. Spec 30_encoding.md R90. -/
inductive WordClass where
  | display (cmd : CommandCode) (g : GridIndex) (seg : SegmentPattern)
  | commandOnly (cmd : CommandCode)
  | other
deriving DecidableEq, Repr

/-- The class of a control word. Spec 30_encoding.md R90, R94. -/
def classifyWord (w : ControlWord) : WordClass :=
  match gridOfMask (wordMask w) with
  | some g => .display (wordCmd w) g (wordSeg w)
  | none => if wordMask w = 0#9 ∧ wordSeg w = 0#8 then .commandOnly (wordCmd w) else .other

/-- The 24 bits of a frame in the order they go on the wire, most significant bit first.
Spec 20_memory.md R62, 41_transport.md R144. -/
def wireBits (f : Frame) : List Bool :=
  (List.range 24).map fun i => (joinFrame f).getLsbD (23 - i)

end Sys2Proof
end

