-- ==== Sys2Proof/Machine/Defaults.lean ====
section
/-! DEFINITION. The fixed delays and patterns of the block and the default values of its parameters
(spec 00_scope.md R7). -/

namespace Sys2Proof

/-- `LATCH_HOLD_US`, a lower bound in microseconds. Spec 41_transport.md R141. -/
def latchHoldUs : Nat := 1

/-- The blank pattern, for every value of `SEG_LUT`. Spec 30_encoding.md R83. -/
def blankPattern : SegmentPattern := 0x00#8

/-- The decimal point alone, for every value of `SEG_LUT`. Spec 30_encoding.md R81, 92_eei_decisions.md D3. -/
def dotPattern : SegmentPattern := 0x80#8

/-- `SEG_BIT` as the spec takes it. Spec 30_encoding.md R81. PRESUMED (log 8): the spec marks it as
general knowledge. -/
def defaultSegBit : SegBit :=
  { a := 0, b := 1, c := 2, d := 3, e := 4, f := 5, g := 6 }

/-- `SEG_LUT` as the spec takes it. Spec 30_encoding.md R82. PRESUMED (log 8): the spec marks the
shapes as general knowledge. -/
def defaultSegLut : SegLut :=
  { d0 := 0x3F#8, d1 := 0x06#8, d2 := 0x5B#8, d3 := 0x4F#8, d4 := 0x66#8, d5 := 0x6D#8,
    d6 := 0x7D#8, d7 := 0x07#8, d8 := 0x7F#8, d9 := 0x6F#8, dash := 0x40#8 }

/-- `STATUS_NUM` as the spec takes it. Spec 30_encoding.md R100. -/
def defaultStatusNum : StatusNum :=
  { ok := 0, invalidParam := 1, notInitialized := 2, invalidGrid := 3, invalidSegment := 4,
    hardwareError := 5 }

/-- The parameters at the values the spec gives them. The line identities and `SPI_MODE` are OPEN and
stay uninterpreted; that the transport accepts every configuration is a DESIGN CHOICE (log 11). -/
def defaultParams : Params :=
  { framePad := .low
    segBit := defaultSegBit
    segLut := defaultSegLut
    statusNum := defaultStatusNum
    defaultPinData := Config.defaultPinData
    defaultPinClk := Config.defaultPinClk
    defaultPinLatch := Config.defaultPinLatch
    transport := .anything
    concurrentMutator := false
    spiMode := Config.spiMode }

/-- `DEFAULT_CFG`. Spec 10_state.md R29. -/
def defaultCfg (p : Params) : DriverConfig :=
  { clockHz := 2000000#32
    pinData := p.defaultPinData
    pinClk := p.defaultPinClk
    pinLatch := p.defaultPinLatch
    settleUs := 1500#32 }

/-- The `CONFIG` side operand when every bit presented is zero. -/
def zeroCfg : DriverConfig :=
  { clockHz := 0#32, pinData := ⟨0⟩, pinClk := ⟨0⟩, pinLatch := ⟨0⟩, settleUs := 0#32 }

/-- Whether the predicate holds of the configuration (log 11). -/
def oracleAccepts (o : TransportOracle) (c : DriverConfig) : Bool :=
  match o with
  | .anything => true
  | .clockAtMost hz => decide (c.clockHz.toNat ≤ hz.toNat)
  | .settleAtMost us => decide (c.settleUs.toNat ≤ us.toNat)
  | .pinDataIs pin => decide (c.pinData = pin)
  | .pinClkIs pin => decide (c.pinClk = pin)
  | .pinLatchIs pin => decide (c.pinLatch = pin)
  | .not o => !oracleAccepts o c
  | .both o o' => oracleAccepts o c && oracleAccepts o' c
  | .unspecified n => Config.transportTakes n c

/-- `TRANSPORT_ACCEPTS(c)`. Spec 44_lifecycle.md R230. -/
def transportAccepts (p : Params) (c : DriverConfig) : Bool := oracleAccepts p.transport c

end Sys2Proof
end

