-- ==== Sys2Proof/Syntax.lean ====
section
/-! DEFINITION. The instructions: one constructor for each row of spec/opcode_table.json, what is
presented on a port of the block, and the actions of the host. -/

namespace Sys2Proof

/-- One constructor for each row of spec/opcode_table.json. -/
inductive Instr where
  /-- `INITIALIZE`: the configuration is present iff `HAS_CFG` = 1. Spec 44_lifecycle.md R230. -/
  | initializeBlock (cfg : Option DriverConfig)
  /-- `DEINITIALIZE`. Spec 44_lifecycle.md R231. -/
  | deinitialize
  /-- `WRITE_SEGMENTS(g, p)`. Spec 42_buffer_ops.md R160. -/
  | writeSegments (g : BitVec 4) (p : Byte)
  /-- `WRITE_DIGIT(g, d)`. Spec 42_buffer_ops.md R161. -/
  | writeDigit (g : BitVec 4) (d : Byte)
  /-- `WRITE_STRING(text)`. Spec 42_buffer_ops.md R162. -/
  | writeString (text : List Byte)
  /-- `CLEAR`. Spec 42_buffer_ops.md R164. -/
  | clear
  /-- `FILL(p)`. Spec 42_buffer_ops.md R165. -/
  | fill (p : Byte)
  /-- `READ_SEGMENTS(g)`. Spec 42_buffer_ops.md R166. -/
  | readSegments (g : BitVec 4)
  /-- `REFRESH`. Spec 43_refresh.md R200. -/
  | refresh
  /-- `SEND_COMMAND(c)`. Spec 43_refresh.md R201. -/
  | sendCommand (c : Byte)
  /-- A request word with `OP` 0xA or 0xB; `low` is its bits 12..0. Spec 30_encoding.md R98. -/
  | reservedOpAB (low : BitVec 13)
  /-- A request word with `OP` 0xC to 0xF; `low` is its bits 13..0. Spec 30_encoding.md R98. -/
  | reservedOpCF (low : BitVec 14)
  /-- A display frame on the link, for grid `g` with pattern `seg`. Spec 30_encoding.md R94. -/
  | frameDisplay (g : GridIndex) (seg : SegmentPattern)
  /-- A command-only frame on the link. Spec 30_encoding.md R94. -/
  | frameCmd (cmd : CommandCode)
  /-- `ENCODE(0x0)`. Spec 40_datapath.md R120, as the twelve that follow. -/
  | encodeDigit0
  | encodeDigit1
  | encodeDigit2
  | encodeDigit3
  | encodeDigit4
  | encodeDigit5
  | encodeDigit6
  | encodeDigit7
  | encodeDigit8
  | encodeDigit9
  | encodeDot
  | encodeDash
  | encodeBlank
  /-- A reserved symbol code, 0xD to 0xF. Spec 30_encoding.md R84. -/
  | encodeReserved (sym : BitVec 4)
  /-- `SELECT(g)`. Spec 40_datapath.md R121. -/
  | select (g : BitVec 4)
  /-- `PACK(cmd, mask, seg)`. Spec 40_datapath.md R122. -/
  | pack (cmd : CommandCode) (mask : GridMask) (seg : SegmentPattern)
  /-- `FRAME(W)`. Spec 40_datapath.md R123. -/
  | frame (w : ControlWord)
deriving DecidableEq, Repr

/-- What is presented to the block, by port. The request port takes the 16-bit word and the two side
operands of spec 30_encoding.md R95; the combinational ports take the inputs of R106; `link` is a
24-bit frame in the layout `FRAME24_LOW` of R91 (log 2, log 3). -/
inductive PortInput where
  | request (word : RequestWord) (text : List Byte) (config : DriverConfig)
  | encode (sym : BitVec 4)
  | select (g : BitVec 4)
  | pack (bits : BitVec 20)
  | frame (w : ControlWord)
  | link (f : FrameValue)
deriving DecidableEq, Repr

/-- What the host does next. Spec 00_scope.md R12; log 1, log 19, log 20. -/
inductive HostAction where
  /-- Present an input on a port. -/
  | present (input : PortInput)
  /-- Load cell `g` through the direct buffer handle. Spec 42_buffer_ops.md R167. -/
  | handleLoad (g : Nat)
  /-- Store `v` to cell `g` through the direct buffer handle. Spec 42_buffer_ops.md R167. -/
  | handleStore (g : Nat) (v : Byte)
  /-- Read `RDATA` of the response that stands on the port. Spec 30_encoding.md R99. -/
  | readRData
  /-- Power-on, or the construction of a fresh block. Spec 70_reset_and_hazards.md R290. -/
  | hardReset
deriving DecidableEq, Repr

end Sys2Proof
end

