-- ==== Sys2Proof/WellFormed.lean ====
section
/-! DEFINITION. Which terms of `Instr` the encoding admits. Most bounds are carried by the fields'
types; the one that is not is the range of a reserved symbol code. -/

namespace Sys2Proof

/-- `ENCODE_RESERVED` stands for the symbol codes 0xD to 0xF only (spec 30_encoding.md R84). Operands a
request checks itself, such as a `GRID` of 9 to 15, are well formed (R97). -/
def Instr.wf (i : Instr) : Bool :=
  match i with
  | .initializeBlock _ => true
  | .deinitialize => true
  | .writeSegments _ _ => true
  | .writeDigit _ _ => true
  | .writeString _ => true
  | .clear => true
  | .fill _ => true
  | .readSegments _ => true
  | .refresh => true
  | .sendCommand _ => true
  | .reservedOpAB _ => true
  | .reservedOpCF _ => true
  | .frameDisplay _ _ => true
  | .frameCmd _ => true
  | .encodeDigit0 => true
  | .encodeDigit1 => true
  | .encodeDigit2 => true
  | .encodeDigit3 => true
  | .encodeDigit4 => true
  | .encodeDigit5 => true
  | .encodeDigit6 => true
  | .encodeDigit7 => true
  | .encodeDigit8 => true
  | .encodeDigit9 => true
  | .encodeDot => true
  | .encodeDash => true
  | .encodeBlank => true
  | .encodeReserved sym => decide (0xD ≤ sym.toNat)
  | .select _ => true
  | .pack _ _ _ => true
  | .frame _ => true

end Sys2Proof
end

