-- ==== Sys2Proof/Decode.lean ====
section
/-! DEFINITION. The decoder of every port (total, rejecting by name) and the encoder. The layouts are
those of spec 30_encoding.md R80, R91, R95, R96, R97, R98, R106. -/

namespace Sys2Proof

/-- Why a presented input is no instruction. -/
inductive DecodeError where
  /-- A must-be-0 field of a request word is not 0. Spec 30_encoding.md R97. -/
  | reservedField
  /-- A link word that is neither `FRAME_DISPLAY` nor `FRAME_CMD`. Spec 30_encoding.md R90, R94, log 5. -/
  | notABlockFrame
deriving DecidableEq, Repr

/-- The `OP` field, bits 15..12. Spec 30_encoding.md R95. -/
def opField (w : RequestWord) : BitVec 4 := w.extractLsb' 12 4

/-- The `GRID` field, bits 11..8. Spec 30_encoding.md R95. -/
def gridField (w : RequestWord) : BitVec 4 := w.extractLsb' 8 4

/-- The `DATA` field, bits 7..0. Spec 30_encoding.md R95. -/
def dataField (w : RequestWord) : Byte := w.extractLsb' 0 8

/-- A request word from its three fields. Spec 30_encoding.md R95. -/
def requestWord (op g : BitVec 4) (d : Byte) : RequestWord :=
  (op.setWidth 16 <<< 12) ||| (g.setWidth 16 <<< 8) ||| d.setWidth 16

/-- `i`, if the must-be-0 fields are 0. Spec 30_encoding.md R97: a nonzero one is refused, not ignored. -/
def whenZero (mustBeZero : Bool) (i : Instr) : Except DecodeError Instr :=
  if mustBeZero then .ok i else .error .reservedField

/-- The request port. Spec 30_encoding.md R96, R97, R98. -/
def decodeRequest (w : RequestWord) (text : List Byte) (config : DriverConfig) : Except DecodeError Instr :=
  match (opField w).toNat with
  | 0x0 =>
    whenZero (gridField w = 0#4 ∧ (dataField w).extractLsb' 1 7 = 0#7)
      (.initializeBlock (if (dataField w).getLsbD 0 then some config else none))
  | 0x1 => whenZero (gridField w = 0#4 ∧ dataField w = 0#8) .deinitialize
  | 0x2 => .ok (.writeSegments (gridField w) (dataField w))
  | 0x3 => .ok (.writeDigit (gridField w) (dataField w))
  | 0x4 => whenZero (gridField w = 0#4 ∧ dataField w = 0#8) (.writeString text)
  | 0x5 => whenZero (gridField w = 0#4 ∧ dataField w = 0#8) .clear
  | 0x6 => whenZero (gridField w = 0#4) (.fill (dataField w))
  | 0x7 => whenZero (dataField w = 0#8) (.readSegments (gridField w))
  | 0x8 => whenZero (gridField w = 0#4 ∧ dataField w = 0#8) .refresh
  | 0x9 => whenZero (gridField w = 0#4) (.sendCommand (dataField w))
  | 0xA => .ok (.reservedOpAB (w.extractLsb' 0 13))
  | 0xB => .ok (.reservedOpAB (w.extractLsb' 0 13))
  | _ => .ok (.reservedOpCF (w.extractLsb' 0 14))

/-- The `ENCODE` port. Spec 30_encoding.md R80, R84. -/
def decodeSymbol (sym : BitVec 4) : Instr :=
  match sym.toNat with
  | 0x0 => .encodeDigit0
  | 0x1 => .encodeDigit1
  | 0x2 => .encodeDigit2
  | 0x3 => .encodeDigit3
  | 0x4 => .encodeDigit4
  | 0x5 => .encodeDigit5
  | 0x6 => .encodeDigit6
  | 0x7 => .encodeDigit7
  | 0x8 => .encodeDigit8
  | 0x9 => .encodeDigit9
  | 0xA => .encodeDot
  | 0xB => .encodeDash
  | 0xC => .encodeBlank
  | _ => .encodeReserved sym

/-- A 24-bit frame in the layout of spec 30_encoding.md R91. `FRAME_CMD` is matched by the mask 0x1FFFF0,
which leaves the pad bits free, and `FRAME_DISPLAY` by the mask 0xE0000F and a one-hot `GRID` (R94; log 5). -/
def decodeLink (f : FrameValue) : Except DecodeError Instr :=
  if f &&& 0x1FFFF0#24 = 0#24 then .ok (.frameCmd (f.extractLsb' 21 3))
  else if f &&& 0xE0000F#24 = 0#24 then
    match gridOfMask (f.extractLsb' 12 9) with
    | some g => .ok (.frameDisplay g (f.extractLsb' 4 8))
    | none => .error .notABlockFrame
  else .error .notABlockFrame

/-- The instruction presented on a port. -/
def decode (input : PortInput) : Except DecodeError Instr :=
  match input with
  | .request w text config => decodeRequest w text config
  | .encode sym => .ok (decodeSymbol sym)
  | .select g => .ok (.select g)
  | .pack bits => .ok (.pack (bits.extractLsb' 17 3) (bits.extractLsb' 8 9) (bits.extractLsb' 0 8))
  | .frame w => .ok (.frame w)
  | .link f => decodeLink f

/-- A request word with no side operand: the text is empty and the configuration all zeros. -/
def encodeRequest (w : RequestWord) : PortInput := .request w [] zeroCfg

/-- What to present for an instruction, from the same tables. -/
def encode (i : Instr) : PortInput :=
  match i with
  | .initializeBlock none => encodeRequest (requestWord 0x0#4 0#4 0#8)
  | .initializeBlock (some cfg) => .request (requestWord 0x0#4 0#4 1#8) [] cfg
  | .deinitialize => encodeRequest (requestWord 0x1#4 0#4 0#8)
  | .writeSegments g p => encodeRequest (requestWord 0x2#4 g p)
  | .writeDigit g d => encodeRequest (requestWord 0x3#4 g d)
  | .writeString text => .request (requestWord 0x4#4 0#4 0#8) text zeroCfg
  | .clear => encodeRequest (requestWord 0x5#4 0#4 0#8)
  | .fill p => encodeRequest (requestWord 0x6#4 0#4 p)
  | .readSegments g => encodeRequest (requestWord 0x7#4 g 0#8)
  | .refresh => encodeRequest (requestWord 0x8#4 0#4 0#8)
  | .sendCommand c => encodeRequest (requestWord 0x9#4 0#4 c)
  | .reservedOpAB low => encodeRequest (0xA000#16 ||| low.setWidth 16)
  | .reservedOpCF low => encodeRequest (0xC000#16 ||| low.setWidth 16)
  | .frameDisplay g seg => .link (frameValue .low (packWord 0#3 (gridMask g) seg))
  | .frameCmd cmd => .link (frameValue .low (packWord cmd 0#9 0#8))
  | .encodeDigit0 => .encode 0x0#4
  | .encodeDigit1 => .encode 0x1#4
  | .encodeDigit2 => .encode 0x2#4
  | .encodeDigit3 => .encode 0x3#4
  | .encodeDigit4 => .encode 0x4#4
  | .encodeDigit5 => .encode 0x5#4
  | .encodeDigit6 => .encode 0x6#4
  | .encodeDigit7 => .encode 0x7#4
  | .encodeDigit8 => .encode 0x8#4
  | .encodeDigit9 => .encode 0x9#4
  | .encodeDot => .encode 0xA#4
  | .encodeDash => .encode 0xB#4
  | .encodeBlank => .encode 0xC#4
  | .encodeReserved sym => .encode sym
  | .select g => .select g
  | .pack cmd mask seg => .pack (packWord cmd mask seg)
  | .frame w => .frame w

/-- What a word of spec/opcode_table.json presents: 16 bits are a request word, 24 bits a frame on the
link, and the 4-bit symbol codes, in one whole byte, the `ENCODE` port. Side operands are all zeros.
The rows `SELECT`, `PACK` and `FRAME` have no match in the table and no word here (log 2). -/
def tableInput (nbits w : Nat) : Option PortInput :=
  match nbits with
  | 8 => if w < 16 then some (.encode (BitVec.ofNat 4 w)) else none
  | 16 => if w < 2 ^ 16 then some (encodeRequest (BitVec.ofNat 16 w)) else none
  | 24 => if w < 2 ^ 24 then some (.link (BitVec.ofNat 24 w)) else none
  | _ => none

/-- The instruction the decoder reads from a word of the opcode table. -/
def decodeTableWord (nbits w : Nat) : Option Instr :=
  match tableInput nbits w with
  | none => none
  | some input =>
    match decode input with
    | .ok i => some i
    | .error _ => none

end Sys2Proof
end

