-- ==== Sys2Proof/Machine/State.lean ====
section
/-! DEFINITION. Everything the spec gives the block (10_state.md), the two agents beside it
(00_scope.md R12), the reasons a step can stop, and the state after reset (10_state.md R36). -/

namespace Sys2Proof.Machine

/-- The memory of spec 20_memory.md R60: the cells of `BUF` that hold a value, addresses strictly
rising. An unlisted address has no value (log 13). -/
abbrev Memory := List Host.Cell

/-- `LIFE`, spec 10_state.md R25. Only an initialized block holds a `CFG` (R27, R36; log 14). -/
inductive Life where
  | uninit
  | init (cfg : DriverConfig)
  | deinit
deriving DecidableEq, Repr

/-- The level of the latch line. Spec 10_state.md R30. -/
inductive LatchLevel where
  | low
  | high
  | undriven
deriving DecidableEq, Repr

/-- The step within one grid's turn. Spec 10_state.md R24. -/
inductive Phase where
  | sample
  | send
  | latchHi
  | latchLo
  | settle
deriving DecidableEq, Repr

/-- An event of `TRACE`. Spec 00_scope.md R10. -/
inductive Event where
  | sink (b : Byte)
  | latch (level : LatchLevel)
  | wait (us : Nat)
  | release
deriving DecidableEq, Repr

/-- The response to a request; `RDATA` is present iff it has a value. Spec 30_encoding.md R99. -/
structure Response where
  status : Status
  rdata : Option Byte
deriving DecidableEq, Repr

/-- What the combinational ports and the direct handle last presented (log 6). -/
inductive PortOutput where
  | nothing
  /-- The result of `ENCODE`. Spec 40_datapath.md R120. -/
  | pattern (p : SegmentPattern)
  /-- The result of `SELECT`. Spec 40_datapath.md R121. -/
  | mask (m : GridMask)
  /-- The failure of `SELECT`. Spec 40_datapath.md R121. -/
  | portStatus (st : Status)
  /-- The result of `PACK`. Spec 40_datapath.md R122. -/
  | word (w : ControlWord)
  /-- The result of `FRAME`. Spec 40_datapath.md R123. -/
  | frame (f : Frame)
  /-- The byte a load through the direct handle gives. Spec 42_buffer_ops.md R167. -/
  | cell (v : Byte)
deriving DecidableEq, Repr

/-- One 8-bit store by the concurrent mutator. Spec 20_memory.md R70, R71. -/
structure ConcurrentStore where
  grid : GridIndex
  value : Byte
deriving DecidableEq, Repr

/-- Why the machine is stuck. The block has no traps (spec 60_exceptions.md R260), so no status and no
handler stands behind a fault. -/
inductive Fault where
  /-- Raised by `transmit` when the block does not own the transport or the latch line is not low:
  spec 41_transport.md R140 gives `TRANSMIT` no effect outside its precondition (log 4). Safe: the
  model stops where nothing is said. -/
  | transmitNotReady
deriving DecidableEq, Repr

/-- Why an instruction or an action is given no meaning. A refused outcome ends the run, which is the
mark of spec 60_exceptions.md R266 (log 18). All are safe: the model stops where the spec says that a
model refuses. -/
inductive Refusal where
  /-- An instruction whose arm in `exec` has no meaning yet; raised by `exec` only. -/
  | notModelled (mnemonic : String)
  /-- An `OP` of 0xA to 0xF; raised by `RESERVED_OP_A_B` and `RESERVED_OP_C_F`. Spec 30_encoding.md R98. -/
  | reservedOp
  /-- A nonzero must-be-0 field; raised by `step` on a request word. Spec 30_encoding.md R97. -/
  | reservedField
  /-- A symbol code 0xD to 0xF; raised by `ENCODE_RESERVED`. Spec 30_encoding.md R84. -/
  | reservedSymbol
  /-- A link word that is neither wire frame of the table; raised by `step`. Spec 30_encoding.md R90, log 5. -/
  | notABlockFrame
  /-- A load of a cell that holds no value; raised by `cellLoad` and a handle load. Spec
  93_implementation_defined.md I11, log 13. -/
  | cellHasNoValue
  /-- A handle access while `LIFE` is not `INIT`; raised by the handle actions. Spec 42_buffer_ops.md R167. -/
  | handleAbsent
  /-- A handle access with an index of 9 or more; raised by the handle actions. Spec 42_buffer_ops.md R167. -/
  | handleIndex
  /-- A read of `RDATA` that has no value; raised by `readRData`. Spec 30_encoding.md R99. -/
  | rdataHasNoValue
  /-- A concurrent store outside the rule of spec 20_memory.md R71, or with no concurrent mutator
  (00_scope.md R12); raised at the interleaving points of a request. -/
  | concurrentStoreBarred
deriving DecidableEq, Repr

/-- The state of the block and of the agents beside it. -/
@[ext]
structure State where
  /-- `LIFE`, and `CFG` while it has a value. Spec 10_state.md R25, R27. -/
  life : Life
  /-- `BUF`. Spec 10_state.md R20. -/
  buf : Memory
  /-- `LATCH`. Spec 10_state.md R30. -/
  latch : LatchLevel
  /-- `TX_OWNED`. Spec 10_state.md R31. -/
  txOwned : Bool
  /-- `SCAN`, absent outside a sweep. Spec 10_state.md R24. -/
  scan : Option GridIndex
  /-- `PHASE`, absent outside a sweep. Spec 10_state.md R24. -/
  phase : Option Phase
  /-- `CUR`, absent outside `WRITE_STRING`. Spec 10_state.md R24. -/
  cur : Option Nat
  /-- `TRACE`, oldest event first. Spec 00_scope.md R10. -/
  trace : List Event
  /-- `CHIP_OUT`, outside the block; no rule reads it. Spec 10_state.md R32. -/
  chipOut : ControlWord
  /-- The model's own: the response that stands on the request port, absent before the first one
  (log 6). No request reads it (spec 10_state.md R26). -/
  response : Option Response
  /-- The model's own: what the other ports last presented (log 6). No instruction reads it. -/
  portOut : PortOutput
  /-- The model's own: the parameters, `SEG_LUT` among them (log 7). No step changes them. -/
  params : Params
  /-- The model's own: what the host does next, first action first (log 1). -/
  host : List HostAction
  /-- The model's own: the concurrent mutator's stores, one list for each interleaving point to come
  (log 17). -/
  mutator : List (List ConcurrentStore)
  /-- The model's own: the number of the next free value of `CHIP_OUT` (log 15). -/
  draws : Nat
deriving DecidableEq, Repr

/-- The block right after reset. Spec 10_state.md R36, 70_reset_and_hazards.md R290. `chipOut` is a free
value (log 15), the ports present nothing (log 6), and no action is pending (log 1, log 17). -/
def State.reset : State :=
  { life := .uninit
    buf := []
    latch := .undriven
    txOwned := false
    scan := none
    phase := none
    cur := none
    trace := []
    chipOut := Config.unknownChipOut 0
    response := none
    portOut := .nothing
    params := defaultParams
    host := []
    mutator := []
    draws := 1 }

end Sys2Proof.Machine
end

