-- ==== Sys2Proof/Machine/Flags.lean ====
section
/-! DEFINITION. The block has no status flags (spec 10_state.md R26). What stands in their place is the
status code of a response (30_encoding.md R99, R100), and this file holds what is computed from it. -/

namespace Sys2Proof.Machine

/-- The number a status has on the port, by the parameter `STATUS_NUM`. Spec 30_encoding.md R100. -/
def statusCode (p : Params) (st : Status) : Nat :=
  match st with
  | .ok => p.statusNum.ok
  | .invalidParam => p.statusNum.invalidParam
  | .notInitialized => p.statusNum.notInitialized
  | .invalidGrid => p.statusNum.invalidGrid
  | .invalidSegment => p.statusNum.invalidSegment
  | .hardwareError => p.statusNum.hardwareError

/-- The status of the response that stands on the request port. Spec 30_encoding.md R99. -/
def State.status (s : State) : Option Status := s.response.map Response.status

/-- `RDATA`, where it has a value. Spec 30_encoding.md R99. -/
def State.rdata (s : State) : Option Byte := s.response.bind Response.rdata

end Sys2Proof.Machine
end

