-- ==== Sys2Proof/Machine/Operands.lean ====
section
/-! DEFINITION. The operand forms: symbol codes, digits, command codes and characters of text, and the
segment encoder over `SEG_LUT`. Grid operands are in Datapath.lean. -/

namespace Sys2Proof.Machine

/-- The symbol of a code; none is a reserved code. Spec 30_encoding.md R80, R84. -/
def symbolOfCode (sym : BitVec 4) : Option Symbol :=
  match sym.toNat with
  | 0x0 => some .d0
  | 0x1 => some .d1
  | 0x2 => some .d2
  | 0x3 => some .d3
  | 0x4 => some .d4
  | 0x5 => some .d5
  | 0x6 => some .d6
  | 0x7 => some .d7
  | 0x8 => some .d8
  | 0x9 => some .d9
  | 0xA => some .dot
  | 0xB => some .dash
  | 0xC => some .blank
  | _ => none

/-- `SEG_LUT[sym]`. Spec 30_encoding.md R82, R83. -/
def segPattern (lut : SegLut) (sym : Symbol) : SegmentPattern :=
  match sym with
  | .d0 => lut.d0
  | .d1 => lut.d1
  | .d2 => lut.d2
  | .d3 => lut.d3
  | .d4 => lut.d4
  | .d5 => lut.d5
  | .d6 => lut.d6
  | .d7 => lut.d7
  | .d8 => lut.d8
  | .d9 => lut.d9
  | .dot => dotPattern
  | .dash => lut.dash
  | .blank => blankPattern

/-- The digit operand of `WRITE_DIGIT`; none is a digit above 9. Spec 42_buffer_ops.md R161: 10 to 15 are
not the symbols `DOT`, `DASH` and `BLANK`. -/
def digitOperand (d : Byte) : Option Symbol :=
  if d.toNat ≤ 9 then symbolOfCode (d.setWidth 4) else none

/-- The code operand of `SEND_COMMAND`; none is a code above 7. Spec 43_refresh.md R201. -/
def commandOperand (c : Byte) : Option CommandCode :=
  if c.toNat ≤ 7 then some (c.setWidth 3) else none

/-- The classes of characters of spec 30_encoding.md R101. -/
inductive CharClass where
  /-- A digit, `-` or a space: it stores a pattern and advances one grid. -/
  | glyph (sym : Symbol)
  /-- `.`: it lights the point of the previous grid. -/
  | point
  /-- NUL: end of input. -/
  | finish
  /-- Any other byte: skipped. -/
  | ignored
deriving DecidableEq, Repr

/-- The class of a byte of text. Spec 30_encoding.md R101 (ASCII, which the spec marks as general
knowledge: PRESUMED, log 21). -/
def charClass (c : Byte) : CharClass :=
  match c.toNat with
  | 0x00 => .finish
  | 0x20 => .glyph .blank
  | 0x2D => .glyph .dash
  | 0x2E => .point
  | 0x30 => .glyph .d0
  | 0x31 => .glyph .d1
  | 0x32 => .glyph .d2
  | 0x33 => .glyph .d3
  | 0x34 => .glyph .d4
  | 0x35 => .glyph .d5
  | 0x36 => .glyph .d6
  | 0x37 => .glyph .d7
  | 0x38 => .glyph .d8
  | 0x39 => .glyph .d9
  | _ => .ignored

/-- Every GridIndex in ascending order. Spec 20_memory.md R66. -/
def allGrids : List GridIndex := [0, 1, 2, 3, 4, 5, 6, 7, 8]

/-- The grid before cursor position `cur`, for `cur` above 0. Spec 42_buffer_ops.md R163. -/
def previousGrid (cur : Nat) : Option GridIndex :=
  if h : 0 < cur ∧ cur - 1 < 9 then some ⟨cur - 1, h.2⟩ else none

end Sys2Proof.Machine
end

