-- ==== Sys2Proof/Machine/Ops.lean ====
section
/-! DEFINITION. The operations the meanings share: sequencing, buffer cells, the link, the concurrent
mutator's turns, the sweep, and the answer to a request. The block has no exceptions (spec
60_exceptions.md R260), so there is no exception entry and no return from one: `respond` with a failing
status is what stands in their place. -/

namespace Sys2Proof.Machine

/-- The outcome of an operation that gives an `α`. -/
abbrev Res (α : Type) := Host.Outcome α Fault Refusal

/-- `o`, then `k` on what it gives; a fault or a refusal ends both. -/
def andThen {α β : Type} (o : Res α) (k : α → Res β) : Res β :=
  match o with
  | .next a => k a
  | .fault r => .fault r
  | .refused r => .refused r

/-! ## The buffer -/

/-- The value of the cell at address `a`; an unlisted address has none. Spec 10_state.md R20, R36. -/
def Memory.load (m : Memory) (a : Nat) : Option Byte :=
  match m with
  | [] => none
  | c :: rest => if c.1 = a then some c.2 else Memory.load rest a

/-- The memory with value `v` at address `a`; it keeps addresses strictly rising. -/
def Memory.store (m : Memory) (a : Nat) (v : Byte) : Memory :=
  match m with
  | [] => [(a, v)]
  | c :: rest =>
    if a < c.1 then (a, v) :: c :: rest
    else if a = c.1 then (a, v) :: rest
    else c :: Memory.store rest a v

/-- The canonical form: addresses strictly rising and in the space 0..8 (spec 20_memory.md R60). An
unlisted address has no value, so no entry can equal what an unlisted address reads as. -/
abbrev Memory.wf (m : Memory) : Prop :=
  m.Pairwise (fun c d => c.1 < d.1) ∧ ∀ c ∈ m, c.1 < 9

/-- Every cell of the buffer holds a value. Spec 10_state.md R20. -/
abbrev Memory.complete (m : Memory) : Prop := ∀ g : GridIndex, (m.load g.val).isSome = true

/-- `BUF[g] <- v` on the state. Spec 00_scope.md R9. -/
def State.setCell (s : State) (g : GridIndex) (v : Byte) : State :=
  { s with buf := s.buf.store g.val v }

/-! ## The link -/

/-- `SinkWrite(b0, b1, b2)`; it never fails. Spec 41_transport.md R143, 20_memory.md R62. -/
def State.sinkWrite (s : State) (f : Frame) : State :=
  { s with trace := s.trace ++ [.sink f.b0, .sink f.b1, .sink f.b2] }

/-- The phase of the grid's turn, while a sweep is in progress. Spec 10_state.md R24, log 16. -/
def State.setPhase (s : State) (ph : Phase) : State :=
  { s with phase := s.scan.map fun _ => ph }

/-- `LatchSet(HIGH)` and `Delay(LATCH_HOLD_US)`, in phase `LATCH_HI`. Spec 41_transport.md R140. -/
def State.raiseLatch (s : State) : State :=
  { s with
    phase := s.scan.map fun _ => .latchHi
    latch := .high
    trace := s.trace ++ [.latch .high, .wait latchHoldUs] }

/-- `LatchSet(LOW)`, in phase `LATCH_LO`: at the falling latch the chip takes the word `w`. Spec
41_transport.md R140, R142 (the abstraction of log 15). -/
def State.fallLatch (s : State) (w : ControlWord) : State :=
  { s with
    phase := s.scan.map fun _ => .latchLo
    latch := .low
    trace := s.trace ++ [.latch .low]
    chipOut := w }

/-- A frame and its latch pulse. Spec 41_transport.md R140. -/
def State.pulse (s : State) (f : Frame) : State :=
  (s.sinkWrite f).raiseLatch.fallLatch (unframe s.params.framePad f)

/-- `TRANSMIT(b0, b1, b2)`. Spec 41_transport.md R140, with its precondition (log 4). -/
def transmit (f : Frame) (s : State) : Res State :=
  if s.txOwned = true ∧ s.latch = .low then .next (s.pulse f) else .fault .transmitNotReady

/-! ## The concurrent mutator -/

/-- Whether the request in progress admits concurrent stores. Spec 20_memory.md R71: `INITIALIZE` and
`DEINITIALIZE` do not. -/
inductive Gate where
  | admits
  | bars
deriving DecidableEq, Repr

/-- One store by the concurrent mutator, or its refusal. Spec 20_memory.md R70, R71. -/
def concurrentStore (gate : Gate) (w : ConcurrentStore) (s : State) : Res State :=
  match gate, s.life with
  | .admits, .init _ =>
    if s.params.concurrentMutator then .next (s.setCell w.grid w.value)
    else .refused .concurrentStoreBarred
  | _, _ => .refused .concurrentStoreBarred

/-- The stores of one interleaving point, in order. Spec 20_memory.md R70. -/
def concurrentStores (gate : Gate) (ws : List ConcurrentStore) (s : State) : Res State :=
  match ws with
  | [] => .next s
  | w :: rest => andThen (concurrentStore gate w s) (concurrentStores gate rest)

/-- An interleaving point: the mutator makes the stores it has for it. One stands before every access
of a cell by the controller and one before the answer (log 17). Spec 20_memory.md R70. -/
def mutatorTurn (gate : Gate) (s : State) : Res State :=
  match s.mutator with
  | [] => .next s
  | ws :: later => concurrentStores gate ws { s with mutator := later }

/-! ## Cells, the sweep and the answer, with the mutator's turns -/

/-- A load of cell `g` by the controller. Spec 20_memory.md R66, R70. -/
def cellLoad (gate : Gate) (g : GridIndex) (s : State) : Res (Byte × State) :=
  andThen (mutatorTurn gate s) fun s =>
    match s.buf.load g.val with
    | some v => .next (v, s)
    | none => .refused .cellHasNoValue

/-- A store to cell `g` by the controller. Spec 20_memory.md R66. -/
def cellStore (gate : Gate) (g : GridIndex) (v : Byte) (s : State) : Res State :=
  andThen (mutatorTurn gate s) fun s => .next (s.setCell g v)

/-- The same byte stored to each of the grids, in order. Spec 20_memory.md R66. -/
def storeEach (gate : Gate) (v : Byte) (gs : List GridIndex) (s : State) : Res State :=
  match gs with
  | [] => .next s
  | g :: rest => andThen (cellStore gate g v s) (storeEach gate v rest)

/-- `SCAN <- g` and `PHASE <- SAMPLE`. Spec 43_refresh.md R200. -/
def State.startTurn (s : State) (g : GridIndex) : State :=
  { s with scan := some g, phase := some .sample }

/-- `PHASE <- SETTLE` and `Delay(CFG.settle_us)`. Spec 43_refresh.md R200, 70_reset_and_hazards.md R300. -/
def State.settle (s : State) (settleUs : U32) : State :=
  { s with
    phase := s.scan.map fun _ => .settle
    trace := s.trace ++ [.wait settleUs.toNat] }

/-- One grid's turn of a sweep. Spec 43_refresh.md R200. -/
def sweepGrid (gate : Gate) (settleUs : U32) (g : GridIndex) (s : State) : Res State :=
  andThen (cellLoad gate g (s.startTurn g)) fun sampled =>
    andThen
      (transmit (packFrame s.params.framePad 0#3 (gridMask g) sampled.1) (sampled.2.setPhase .send))
      fun s => .next (s.settle settleUs)

/-- The turns of the grids, in order. Spec 43_refresh.md R200. -/
def sweepGrids (gate : Gate) (settleUs : U32) (gs : List GridIndex) (s : State) : Res State :=
  match gs with
  | [] => .next s
  | g :: rest => andThen (sweepGrid gate settleUs g s) (sweepGrids gate settleUs rest)

/-- `SWEEP`: all nine grids in increasing order. Spec 43_refresh.md R200, R202. -/
def sweep (gate : Gate) (settleUs : U32) (s : State) : Res State :=
  sweepGrids gate settleUs allGrids s

/-- The end of a request: the response stands on the port, and `SCAN`, `PHASE` and `CUR` do not survive.
Spec 30_encoding.md R99, 10_state.md R24. -/
def State.answer (s : State) (st : Status) (rdata : Option Byte) : State :=
  { s with response := some ⟨st, rdata⟩, scan := none, phase := none, cur := none }

/-- `return st`, after the last interleaving point of the request. Spec 00_scope.md R9. -/
def respond (gate : Gate) (st : Status) (rdata : Option Byte) (s : State) : Res State :=
  andThen (mutatorTurn gate s) fun s => .next (s.answer st rdata)

/-- `if LIFE != INIT then fail NOT_INITIALIZED`, and otherwise `k` on the applied configuration. Spec
60_exceptions.md R262. -/
def whenInit (gate : Gate) (k : DriverConfig → State → Res State) (s : State) : Res State :=
  match s.life with
  | .init cfg => k cfg s
  | .uninit => respond gate .notInitialized none s
  | .deinit => respond gate .notInitialized none s

/-- The check of a `GRID` operand, `fail INVALID_GRID`, and otherwise `k` on the grid. Spec
30_encoding.md R85, 60_exceptions.md R263. -/
def whenGrid (gate : Gate) (g : BitVec 4) (k : GridIndex → State → Res State) (s : State) : Res State :=
  match gridOfField g with
  | some grid => k grid s
  | none => respond gate .invalidGrid none s

end Sys2Proof.Machine
end

