-- ==== Sys2Proof/Machine/BufferOps.lean ====
section
/-! DEFINITION. The meanings of the display-buffer requests (spec 42_buffer_ops.md). None of them
transmits anything (20_memory.md R67). -/

namespace Sys2Proof.Machine

/-- `WRITE_SEGMENTS(g, p)`. Spec 42_buffer_ops.md R160. -/
def execWriteSegments (g : BitVec 4) (p : Byte) (s : State) : Res State :=
  whenInit .admits
    (fun _ => whenGrid .admits g fun grid s =>
      andThen (cellStore .admits grid p s) (respond .admits .ok none))
    s

/-- `WRITE_DIGIT(g, d)`; the grid is checked before the digit. Spec 42_buffer_ops.md R161. -/
def execWriteDigit (g : BitVec 4) (d : Byte) (s : State) : Res State :=
  whenInit .admits
    (fun _ => whenGrid .admits g fun grid s =>
      match digitOperand d with
      | some sym =>
        andThen (cellStore .admits grid (segPattern s.params.segLut sym) s) (respond .admits .ok none)
      | none => respond .admits .invalidParam none s)
    s

/-- The body of `WRITE_STRING` after its clear: the bytes of text in order, `cur` being the next grid to
be written. Spec 42_buffer_ops.md R162, R163. The two accesses of a `.` are separate cell events
(20_memory.md R72). -/
def renderText (text : List Byte) (cur : Nat) (s : State) : Res State :=
  match text with
  | [] => .next { s with cur := some cur }
  | c :: rest =>
    if h : cur < 9 then
      match charClass c with
      | .finish => .next { s with cur := some cur }
      | .glyph sym =>
        andThen
          (cellStore .admits ⟨cur, h⟩ (segPattern s.params.segLut sym) { s with cur := some cur })
          (renderText rest (cur + 1))
      | .point =>
        match previousGrid cur with
        | some g =>
          andThen (cellLoad .admits g { s with cur := some cur }) fun loaded =>
            andThen (cellStore .admits g (loaded.1 ||| dotPattern) loaded.2) (renderText rest cur)
        | none => renderText rest cur { s with cur := some cur }
      | .ignored => renderText rest cur { s with cur := some cur }
    else .next { s with cur := some cur }

/-- `WRITE_STRING(text)`. Spec 42_buffer_ops.md R162. -/
def execWriteString (text : List Byte) (s : State) : Res State :=
  whenInit .admits
    (fun _ s =>
      andThen (storeEach .admits blankPattern allGrids s) fun s =>
        andThen (renderText text 0 s) (respond .admits .ok none))
    s

/-- `CLEAR`. Spec 42_buffer_ops.md R164. -/
def execClear (s : State) : Res State :=
  whenInit .admits
    (fun _ s => andThen (storeEach .admits blankPattern allGrids s) (respond .admits .ok none))
    s

/-- `FILL(p)`. Spec 42_buffer_ops.md R165. -/
def execFill (p : Byte) (s : State) : Res State :=
  whenInit .admits
    (fun _ s => andThen (storeEach .admits p allGrids s) (respond .admits .ok none))
    s

/-- `READ_SEGMENTS(g)`. Spec 42_buffer_ops.md R166. -/
def execReadSegments (g : BitVec 4) (s : State) : Res State :=
  whenInit .admits
    (fun _ => whenGrid .admits g fun grid s =>
      andThen (cellLoad .admits grid s) fun loaded =>
        respond .admits .ok (some loaded.1) loaded.2)
    s

end Sys2Proof.Machine
end

