-- ==== Sys2Proof/Machine/DatapathPorts.lean ====
section
/-! DEFINITION. The meanings of the combinational ports `ENCODE`, `SELECT`, `PACK` and `FRAME` (spec
40_datapath.md, 30_encoding.md R106): usable in any lifecycle state, reading no state but the
parameters, with no trace event. -/

namespace Sys2Proof.Machine

/-- A combinational port presents its result. Spec 40_datapath.md. -/
def State.present (s : State) (out : PortOutput) : State := { s with portOut := out }

/-- `ENCODE` of a symbol. Spec 40_datapath.md R120. -/
def encodePort (sym : Symbol) (s : State) : Res State :=
  .next (s.present (.pattern (segPattern s.params.segLut sym)))

/-- `ENCODE(0x0)`. Spec 40_datapath.md R120. -/
def execEncodeDigit0 (s : State) : Res State := encodePort .d0 s

/-- `ENCODE(0x1)`. Spec 40_datapath.md R120. -/
def execEncodeDigit1 (s : State) : Res State := encodePort .d1 s

/-- `ENCODE(0x2)`. Spec 40_datapath.md R120. -/
def execEncodeDigit2 (s : State) : Res State := encodePort .d2 s

/-- `ENCODE(0x3)`. Spec 40_datapath.md R120. -/
def execEncodeDigit3 (s : State) : Res State := encodePort .d3 s

/-- `ENCODE(0x4)`. Spec 40_datapath.md R120. -/
def execEncodeDigit4 (s : State) : Res State := encodePort .d4 s

/-- `ENCODE(0x5)`. Spec 40_datapath.md R120. -/
def execEncodeDigit5 (s : State) : Res State := encodePort .d5 s

/-- `ENCODE(0x6)`. Spec 40_datapath.md R120. -/
def execEncodeDigit6 (s : State) : Res State := encodePort .d6 s

/-- `ENCODE(0x7)`. Spec 40_datapath.md R120. -/
def execEncodeDigit7 (s : State) : Res State := encodePort .d7 s

/-- `ENCODE(0x8)`. Spec 40_datapath.md R120. -/
def execEncodeDigit8 (s : State) : Res State := encodePort .d8 s

/-- `ENCODE(0x9)`. Spec 40_datapath.md R120. -/
def execEncodeDigit9 (s : State) : Res State := encodePort .d9 s

/-- `ENCODE(DOT)`. Spec 40_datapath.md R120. -/
def execEncodeDot (s : State) : Res State := encodePort .dot s

/-- `ENCODE(DASH)`. Spec 40_datapath.md R120. -/
def execEncodeDash (s : State) : Res State := encodePort .dash s

/-- `ENCODE(BLANK)`. Spec 40_datapath.md R120, 30_encoding.md R83. -/
def execEncodeBlank (s : State) : Res State := encodePort .blank s

/-- A reserved symbol code is refused and given no pattern. Spec 30_encoding.md R84. -/
def execEncodeReserved (_sym : BitVec 4) (_s : State) : Res State := .refused .reservedSymbol

/-- `SELECT(g)`. Spec 40_datapath.md R121. -/
def execSelect (g : BitVec 4) (s : State) : Res State :=
  match selectGrid g with
  | some m => .next (s.present (.mask m))
  | none => .next (s.present (.portStatus .invalidGrid))

/-- `PACK(cmd, mask, seg)`. Spec 40_datapath.md R122: total, with no validation. -/
def execPack (cmd : CommandCode) (mask : GridMask) (seg : SegmentPattern) (s : State) : Res State :=
  .next (s.present (.word (packWord cmd mask seg)))

/-- `FRAME(W)`. Spec 40_datapath.md R123. -/
def execFrame (w : ControlWord) (s : State) : Res State :=
  .next (s.present (.frame (frameBytes s.params.framePad w)))

end Sys2Proof.Machine
end

