-- ==== Sys2Proof/Machine/Lifecycle.lean ====
section
/-! DEFINITION. The meanings of the lifecycle requests (spec 44_lifecycle.md). Both bar concurrent
stores (20_memory.md R71). -/

namespace Sys2Proof.Machine

/-- The effect of a successful `INITIALIZE` before its buffer clear: the transport is taken and the
latch line goes low with its event. The chip's outputs are unknown from here until the first frame (spec
70_reset_and_hazards.md R293, 93_implementation_defined.md I18; log 15). -/
def State.takeTransport (s : State) : State :=
  { s with
    txOwned := true
    latch := .low
    trace := s.trace ++ [.latch .low]
    chipOut := Config.unknownChipOut s.draws
    draws := s.draws + 1 }

/-- `INITIALIZE` from `UNINIT` or `DEINIT` with the configuration it applies. Spec 44_lifecycle.md R230. -/
def applyConfig (c : DriverConfig) (s : State) : Res State :=
  if c.clockHz = 0#32 ∨ c.settleUs = 0#32 then respond .bars .invalidParam none s
  else if transportAccepts s.params c = false then respond .bars .hardwareError none s
  else
    andThen (storeEach .bars blankPattern allGrids s.takeTransport) fun s =>
      respond .bars .ok none { s with life := .init c }

/-- `INITIALIZE`; `cfg` is present iff `HAS_CFG` = 1. Spec 44_lifecycle.md R230, R232. -/
def execInitialize (cfg : Option DriverConfig) (s : State) : Res State :=
  match s.life with
  | .init _ => respond .bars .ok none s
  | .uninit => applyConfig (cfg.getD (defaultCfg s.params)) s
  | .deinit => applyConfig (cfg.getD (defaultCfg s.params)) s

/-- The transport is released, and `BUF` and `CFG` hold no value from here on. Spec 44_lifecycle.md R231. -/
def State.releaseTransport (s : State) : State :=
  { s with
    txOwned := false
    latch := .undriven
    trace := s.trace ++ [.release]
    buf := []
    life := .deinit }

/-- `DEINITIALIZE`. Spec 44_lifecycle.md R231. -/
def execDeinitialize (s : State) : Res State :=
  whenInit .bars
    (fun cfg s =>
      andThen (storeEach .bars blankPattern allGrids s) fun s =>
        andThen (sweep .bars cfg.settleUs s) fun s =>
          respond .bars .ok none s.releaseTransport)
    s

end Sys2Proof.Machine
end

