-- ==== Sys2Proof/Machine/Refresh.lean ====
section
/-! DEFINITION. The meanings that put frames on the link: `REFRESH` and `SEND_COMMAND` (spec
43_refresh.md), and the two wire frames of the opcode table (30_encoding.md R94) as the internal step
`TRANSMIT` of that frame (41_transport.md R140; log 3). -/

namespace Sys2Proof.Machine

/-- `REFRESH`. Spec 43_refresh.md R200. -/
def execRefresh (s : State) : Res State :=
  whenInit .admits
    (fun cfg s => andThen (sweep .admits cfg.settleUs s) (respond .admits .ok none))
    s

/-- `SEND_COMMAND(c)`; it adds no settle delay. Spec 43_refresh.md R201. -/
def execSendCommand (c : Byte) (s : State) : Res State :=
  whenInit .admits
    (fun _ s =>
      match commandOperand c with
      | some cmd =>
        andThen (transmit (packFrame s.params.framePad cmd 0#9 0#8) s) (respond .admits .ok none)
      | none => respond .admits .invalidParam none s)
    s

/-- A display frame put on the link. Spec 41_transport.md R140, 30_encoding.md R90 (a). -/
def execFrameDisplay (g : GridIndex) (seg : SegmentPattern) (s : State) : Res State :=
  transmit (packFrame s.params.framePad 0#3 (gridMask g) seg) s

/-- A command-only frame put on the link. Spec 41_transport.md R140, 30_encoding.md R90 (b). -/
def execFrameCmd (cmd : CommandCode) (s : State) : Res State :=
  transmit (packFrame s.params.framePad cmd 0#9 0#8) s

end Sys2Proof.Machine
end

