-- ==== Sys2Proof/Machine/Reserved.lean ====
section
/-! DEFINITION. The reserved `OP` values, which a model refuses and gives no status (spec
30_encoding.md R98). -/

namespace Sys2Proof.Machine

/-- `OP` 0xA and 0xB. Spec 30_encoding.md R98. -/
def execReservedOpAB (_low : BitVec 13) (_s : State) : Res State := .refused .reservedOp

/-- `OP` 0xC to 0xF. Spec 30_encoding.md R98. -/
def execReservedOpCF (_low : BitVec 14) (_s : State) : Res State := .refused .reservedOp

end Sys2Proof.Machine
end

