-- ==== Sys2Proof/Machine/Dispatch.lean ====
section
/-! DEFINITION. The meaning of each instruction, one arm for each constructor of `Instr`. -/

namespace Sys2Proof.Machine

def exec (i : Instr) (s : State) : Host.Outcome State Fault Refusal :=
  match i with
  | .initializeBlock cfg => Sys2Proof.Machine.execInitialize cfg s
  | .deinitialize => Sys2Proof.Machine.execDeinitialize s
  | .writeSegments g p => Sys2Proof.Machine.execWriteSegments g p s
  | .writeDigit g d => Sys2Proof.Machine.execWriteDigit g d s
  | .writeString text => Sys2Proof.Machine.execWriteString text s
  | .clear => Sys2Proof.Machine.execClear s
  | .fill p => Sys2Proof.Machine.execFill p s
  | .readSegments g => Sys2Proof.Machine.execReadSegments g s
  | .refresh => Sys2Proof.Machine.execRefresh s
  | .sendCommand c => Sys2Proof.Machine.execSendCommand c s
  | .reservedOpAB low => Sys2Proof.Machine.execReservedOpAB low s
  | .reservedOpCF low => Sys2Proof.Machine.execReservedOpCF low s
  | .frameDisplay g seg => Sys2Proof.Machine.execFrameDisplay g seg s
  | .frameCmd cmd => Sys2Proof.Machine.execFrameCmd cmd s
  | .encodeDigit0 => Sys2Proof.Machine.execEncodeDigit0 s
  | .encodeDigit1 => Sys2Proof.Machine.execEncodeDigit1 s
  | .encodeDigit2 => Sys2Proof.Machine.execEncodeDigit2 s
  | .encodeDigit3 => Sys2Proof.Machine.execEncodeDigit3 s
  | .encodeDigit4 => Sys2Proof.Machine.execEncodeDigit4 s
  | .encodeDigit5 => Sys2Proof.Machine.execEncodeDigit5 s
  | .encodeDigit6 => Sys2Proof.Machine.execEncodeDigit6 s
  | .encodeDigit7 => Sys2Proof.Machine.execEncodeDigit7 s
  | .encodeDigit8 => Sys2Proof.Machine.execEncodeDigit8 s
  | .encodeDigit9 => Sys2Proof.Machine.execEncodeDigit9 s
  | .encodeDot => Sys2Proof.Machine.execEncodeDot s
  | .encodeDash => Sys2Proof.Machine.execEncodeDash s
  | .encodeBlank => Sys2Proof.Machine.execEncodeBlank s
  | .encodeReserved sym => Sys2Proof.Machine.execEncodeReserved sym s
  | .select g => Sys2Proof.Machine.execSelect g s
  | .pack cmd mask seg => Sys2Proof.Machine.execPack cmd mask seg s
  | .frame w => Sys2Proof.Machine.execFrame w s

end Sys2Proof.Machine
end

