-- ==== Sys2Proof/Machine/HostActions.lean ====
section
/-! DEFINITION. The host's actions that are no instruction: the direct buffer handle (spec
42_buffer_ops.md R167), the read of `RDATA` (30_encoding.md R99) and reset (70_reset_and_hazards.md R290). -/

namespace Sys2Proof.Machine

/-- A load through the direct handle. Spec 42_buffer_ops.md R167. -/
def handleLoad (g : Nat) (s : State) : Res State :=
  match s.life with
  | .init _ =>
    if g < 9 then
      match s.buf.load g with
      | some v => .next { s with portOut := .cell v }
      | none => .refused .cellHasNoValue
    else .refused .handleIndex
  | .uninit => .refused .handleAbsent
  | .deinit => .refused .handleAbsent

/-- A store through the direct handle, with no validation beyond its index. Spec 42_buffer_ops.md R167. -/
def handleStore (g : Nat) (v : Byte) (s : State) : Res State :=
  match s.life with
  | .init _ => if h : g < 9 then .next (s.setCell ⟨g, h⟩ v) else .refused .handleIndex
  | .uninit => .refused .handleAbsent
  | .deinit => .refused .handleAbsent

/-- A read of `RDATA`: nothing changes, and a read of no value is refused. Spec 30_encoding.md R99. -/
def readRData (s : State) : Res State :=
  match s.rdata with
  | some _ => .next s
  | none => .refused .rdataHasNoValue

/-- Reset: the block at the state of spec 10_state.md R36, the chip's outputs a new free value. The
parameters and the other two agents are not the block's and stay. Spec 70_reset_and_hazards.md R290,
log 20. -/
def hardReset (s : State) : Res State :=
  .next
    { State.reset with
      params := s.params
      host := s.host
      mutator := s.mutator
      chipOut := Config.unknownChipOut s.draws
      draws := s.draws + 1 }

end Sys2Proof.Machine
end

