-- ==== Sys2Proof/Machine/Step.lean ====
section
/-! DEFINITION. One step of the machine: the host's next action, performed to completion (spec
10_state.md R23, R69; log 1). -/

namespace Sys2Proof.Machine

/-- An input presented on a port: the instruction it decodes to, or the decoder's refusal. -/
def presentInput (input : PortInput) (s : State) : Host.Outcome State Fault Refusal :=
  match decode input with
  | .ok i => exec i s
  | .error .reservedField => .refused .reservedField
  | .error .notABlockFrame => .refused .notABlockFrame

/-- One action of the host. -/
def performAction (a : HostAction) (s : State) : Host.Outcome State Fault Refusal :=
  match a with
  | .present input => presentInput input s
  | .handleLoad g => handleLoad g s
  | .handleStore g v => handleStore g v s
  | .readRData => readRData s
  | .hardReset => hardReset s

/-- The host's next action is taken from its list and performed; with none pending the block is idle
(spec 60_exceptions.md R274). -/
def step (s : State) : Host.Outcome State Fault Refusal :=
  match s.host with
  | [] => .next s
  | a :: later => performAction a { s with host := later }

/-- `s`, with the instruction of that table word presented next. Log 1 and log 2 say how a program comes
to run. A word the table does not have leaves `s` as it is. -/
def State.withFetchWord (s : State) (nbits w : Nat) : State :=
  match tableInput nbits w with
  | some input => { s with host := .present input :: s.host }
  | none => s

end Sys2Proof.Machine
end

