-- ==== Sys2Proof/Machine/Display.lean ====
section
/-! DEFINITION. What a control word on the chip's outputs lights, in the spec's abstraction of the chip
(41_transport.md R142, 30_encoding.md R81, log 15). No step reads it. -/

namespace Sys2Proof.Machine

/-- The pattern bit that lights a segment. Spec 30_encoding.md R81. -/
def segmentBit (p : Params) (seg : Segment) : Fin 8 :=
  match seg with
  | .a => p.segBit.a
  | .b => p.segBit.b
  | .c => p.segBit.c
  | .d => p.segBit.d
  | .e => p.segBit.e
  | .f => p.segBit.f
  | .g => p.segBit.g
  | .dp => 7

/-- A bit set to 1 lights its segment. Spec 30_encoding.md R81. -/
def segmentLit (p : Params) (pattern : SegmentPattern) (seg : Segment) : Bool :=
  pattern.getLsbD (segmentBit p seg).val

/-- Grid `g` is energized by a word whose mask bit `8 - g` is set. Spec 20_memory.md R68. -/
def gridEnergized (w : ControlWord) (g : GridIndex) : Bool := (wordMask w).getLsbD (8 - g.val)

/-- Segment `seg` of grid `g` is lit by word `w`. Spec 41_transport.md R142. -/
def displayLit (p : Params) (w : ControlWord) (g : GridIndex) (seg : Segment) : Bool :=
  gridEnergized w g && segmentLit p (wordSeg w) seg

end Sys2Proof.Machine
end

