-- ==== Sys2Proof/Machine/Timing.lean ====
section
/-! DEFINITION. Lower bounds on time, read from a list of events (spec 43_refresh.md R205,
70_reset_and_hazards.md R300, R301). The model has no time, and no step reads these. -/

namespace Sys2Proof.Machine

/-- The sum of the waits, in microseconds. Spec 70_reset_and_hazards.md R300. -/
def waitBoundUs (es : List Event) : Nat :=
  match es with
  | [] => 0
  | .wait us :: rest => us + waitBoundUs rest
  | .sink _ :: rest => waitBoundUs rest
  | .latch _ :: rest => waitBoundUs rest
  | .release :: rest => waitBoundUs rest

/-- Eight clock periods for each byte on the wire. Spec 41_transport.md R144. -/
def wirePeriods (es : List Event) : Nat :=
  match es with
  | [] => 0
  | .sink _ :: rest => 8 + wirePeriods rest
  | .wait _ :: rest => wirePeriods rest
  | .latch _ :: rest => wirePeriods rest
  | .release :: rest => wirePeriods rest

/-- Waits and transfers together, in microseconds, rounded down. Spec 43_refresh.md R205. -/
def timeBoundUs (clockHz : U32) (es : List Event) : Nat :=
  waitBoundUs es + wirePeriods es * 1000000 / clockHz.toNat

end Sys2Proof.Machine
end

