-- ==== Sys2Proof/Safety.lean ====
section
/-! DEFINITION. What claims are stated in: the invariant of a state between requests, the grammar of the
trace, the events of a frame and of a sweep, and the mutator's stores as a change of memory. -/

namespace Sys2Proof.Machine

/-- What holds of every state between requests. Spec 10_state.md R22, R24, R25, R27, R30, R31, R36,
44_lifecycle.md R231. -/
structure State.Inv (s : State) : Prop where
  /-- The buffer is in its canonical form. -/
  bufWf : s.buf.wf
  /-- No transient survives its request. Spec 10_state.md R24. -/
  noScan : s.scan = none
  noPhase : s.phase = none
  noCur : s.cur = none
  /-- In `INIT` every cell has a value, the latch idles low, the transport is owned, and `CFG` is a
  legal configuration the transport takes. Spec 10_state.md R27, R30, R31. -/
  whileInit : ∀ cfg, s.life = .init cfg →
    s.buf.complete ∧ s.latch = .low ∧ s.txOwned = true ∧
    cfg.clockHz ≠ 0#32 ∧ cfg.settleUs ≠ 0#32 ∧ transportAccepts s.params cfg = true
  /-- Outside `INIT` no cell has a value, the line is undriven and the transport is not owned. Spec
  10_state.md R30, R36, 44_lifecycle.md R231. -/
  whileNotInit : (∀ cfg, s.life ≠ .init cfg) →
    s.buf = [] ∧ s.latch = .undriven ∧ s.txOwned = false
  /-- Before the first successful `INITIALIZE` nothing has been emitted. Spec 44_lifecycle.md R233. -/
  silentUninit : s.life = .uninit → s.trace = []

/-- A frame the block emits: its pad bits are 0, and it carries a display word with command 0 or a
command-only word. Spec 30_encoding.md R90, R91. -/
def emittable (pad : PadPosition) (f : Frame) : Bool :=
  decide (frameBytes pad (unframe pad f) = f) &&
    match classifyWord (unframe pad f) with
    | .display cmd _ _ => decide (cmd = 0#3)
    | .commandOnly _ => true
    | .other => false

/-- The grammar of a trace: whole frames, each with its three bytes, its pulse and its hold in one
piece, and between them the falling latch of `INITIALIZE`, settle delays and releases. Spec
20_memory.md R74, 41_transport.md R141, R145. -/
def framed (pad : PadPosition) (es : List Event) : Bool :=
  match es with
  | [] => true
  | .sink b0 :: .sink b1 :: .sink b2 :: .latch .high :: .wait us :: .latch .low :: rest =>
    decide (latchHoldUs ≤ us) && emittable pad ⟨b0, b1, b2⟩ && framed pad rest
  | .latch .low :: rest => framed pad rest
  | .wait _ :: rest => framed pad rest
  | .release :: rest => framed pad rest
  | _ => false

/-- The six events of a frame. Spec 41_transport.md R140. -/
def frameEvents (f : Frame) : List Event :=
  [.sink f.b0, .sink f.b1, .sink f.b2, .latch .high, .wait 1, .latch .low]

/-- The seven events of one grid's turn in a sweep, for pattern `p`. Spec 43_refresh.md R200. -/
def turnEvents (pad : PadPosition) (settleUs : U32) (g : GridIndex) (p : Byte) : List Event :=
  frameEvents (packFrame pad 0#3 (gridMask g) p) ++ [.wait settleUs.toNat]

/-- The 63 events of a sweep in which grid `g` carries pattern `pats g`. Spec 43_refresh.md R200, R202. -/
def sweepEvents (pad : PadPosition) (settleUs : U32) (pats : GridIndex → Byte) : List Event :=
  allGrids.flatMap fun g => turnEvents pad settleUs g (pats g)

/-- The pattern of a character that advances one grid; none for any other. The conditions are those of the
pseudocode of spec 42_buffer_ops.md R162, written on the byte itself. -/
def glyphPattern (lut : SegLut) (c : Byte) : Option Byte :=
  if 0x30 ≤ c.toNat ∧ c.toNat ≤ 0x39 then
    (symbolOfCode (BitVec.ofNat 4 (c.toNat - 0x30))).map (segPattern lut)
  else if c = 0x2D#8 then some lut.dash
  else if c = 0x20#8 then some 0x00#8
  else none

/-- The patterns after one more character, `pats` being those of the grids already written. Spec
42_buffer_ops.md R162, R163. -/
def textStep (lut : SegLut) (c : Byte) (pats : List Byte) : List Byte :=
  match glyphPattern lut c with
  | some p => pats ++ [p]
  | none =>
    if c = 0x2E#8 then pats.dropLast ++ (pats.getLast?.map fun p => p ||| 0x80#8).toList else pats

/-- The patterns a text puts on the display, left to right. The length of `pats` is the cursor: the text
ends at its end, at a NUL, or when nine grids are written. Spec 42_buffer_ops.md R162. -/
def textPatterns (lut : SegLut) (text pats : List Byte) : List Byte :=
  match text with
  | [] => pats
  | c :: rest =>
    if pats.length = 9 ∨ c = 0x00#8 then pats else textPatterns lut rest (textStep lut c pats)

/-- The memory after a list of concurrent stores. Spec 20_memory.md R70. -/
def Memory.afterStores (m : Memory) (ws : List ConcurrentStore) : Memory :=
  ws.foldl (fun m w => m.store w.grid.val w.value) m

/-- The memory after the concurrent stores of the first `k` interleaving points, when the controller
stores nothing meanwhile. Spec 20_memory.md R70, log 17. -/
def State.bufAfterTurns (s : State) (k : Nat) : Memory :=
  s.buf.afterStores (s.mutator.take k).flatten

/-- The ten requests of the request port. Spec 30_encoding.md R96. -/
def isRequest (i : Instr) : Bool :=
  match i with
  | .initializeBlock _ => true
  | .deinitialize => true
  | .writeSegments _ _ => true
  | .writeDigit _ _ => true
  | .writeString _ => true
  | .clear => true
  | .fill _ => true
  | .readSegments _ => true
  | .refresh => true
  | .sendCommand _ => true
  | .reservedOpAB _ => false
  | .reservedOpCF _ => false
  | .frameDisplay _ _ => false
  | .frameCmd _ => false
  | .encodeDigit0 => false
  | .encodeDigit1 => false
  | .encodeDigit2 => false
  | .encodeDigit3 => false
  | .encodeDigit4 => false
  | .encodeDigit5 => false
  | .encodeDigit6 => false
  | .encodeDigit7 => false
  | .encodeDigit8 => false
  | .encodeDigit9 => false
  | .encodeDot => false
  | .encodeDash => false
  | .encodeBlank => false
  | .encodeReserved _ => false
  | .select _ => false
  | .pack _ _ _ => false
  | .frame _ => false

/-- The accesses of cells in the body of `WRITE_STRING` after its clear: one for each character that
advances, two for a `.` with a grid before it. Spec 42_buffer_ops.md R162, 20_memory.md R72. -/
def textAccesses (text : List Byte) (cur : Nat) : Nat :=
  match text with
  | [] => 0
  | c :: rest =>
    if cur = 9 ∨ c = 0x00#8 then 0
    else if (0x30 ≤ c.toNat ∧ c.toNat ≤ 0x39) ∨ c = 0x2D#8 ∨ c = 0x20#8 then
      1 + textAccesses rest (cur + 1)
    else if c = 0x2E#8 ∧ 0 < cur then 2 + textAccesses rest cur
    else textAccesses rest cur

/-- `n` in `INIT`, and 1 elsewhere, where a request only answers. -/
def State.pointsInInit (s : State) (n : Nat) : Nat :=
  match s.life with
  | .init _ => n
  | .uninit => 1
  | .deinit => 1

/-- The interleaving points of an `INITIALIZE` that applies `c`. -/
def State.startPoints (s : State) (c : DriverConfig) : Nat :=
  match s.life with
  | .init _ => 1
  | .uninit =>
    if c.clockHz ≠ 0#32 ∧ c.settleUs ≠ 0#32 ∧ transportAccepts s.params c = true then 10 else 1
  | .deinit =>
    if c.clockHz ≠ 0#32 ∧ c.settleUs ≠ 0#32 ∧ transportAccepts s.params c = true then 10 else 1

/-- The interleaving points of an instruction: one for each access of a cell that its rule makes, and one
before the answer (log 17). -/
def interleavingPoints (i : Instr) (s : State) : Nat :=
  match i with
  | .initializeBlock arg => s.startPoints (arg.getD (defaultCfg s.params))
  | .deinitialize => s.pointsInInit 19
  | .writeSegments g _ => s.pointsInInit (if g.toNat ≤ 8 then 2 else 1)
  | .writeDigit g d => s.pointsInInit (if g.toNat ≤ 8 ∧ d.toNat ≤ 9 then 2 else 1)
  | .writeString text => s.pointsInInit (9 + textAccesses text 0 + 1)
  | .clear => s.pointsInInit 10
  | .fill _ => s.pointsInInit 10
  | .readSegments g => s.pointsInInit (if g.toNat ≤ 8 then 2 else 1)
  | .refresh => s.pointsInInit 10
  | .sendCommand _ => 1
  | .reservedOpAB _ | .reservedOpCF _ | .frameDisplay _ _ | .frameCmd _ => 0
  | .encodeDigit0 | .encodeDigit1 | .encodeDigit2 | .encodeDigit3 | .encodeDigit4 => 0
  | .encodeDigit5 | .encodeDigit6 | .encodeDigit7 | .encodeDigit8 | .encodeDigit9 => 0
  | .encodeDot | .encodeDash | .encodeBlank | .encodeReserved _ => 0
  | .select _ | .pack _ _ _ | .frame _ => 0

/-- The lifecycle transitions of spec 10_state.md R25 under parameters `p`, with `CFG` written only by a
successful `INITIALIZE` (R27). -/
inductive LifeStep (p : Params) : Instr → Life → Life → Prop where
  /-- A successful `INITIALIZE` from `UNINIT`. -/
  | start (arg : Option DriverConfig) :
      LifeStep p (.initializeBlock arg) .uninit (.init (arg.getD (defaultCfg p)))
  /-- A successful `INITIALIZE` from `DEINIT`. -/
  | restart (arg : Option DriverConfig) :
      LifeStep p (.initializeBlock arg) .deinit (.init (arg.getD (defaultCfg p)))
  /-- `DEINITIALIZE` in `INIT`. -/
  | stop (cfg : DriverConfig) : LifeStep p .deinitialize (.init cfg) .deinit
  /-- No change, `CFG` included: the one case of every other instruction, of a failed `INITIALIZE`, and
  of an `INITIALIZE` in `INIT`. `DEINITIALIZE` changes nothing only outside `INIT`. -/
  | stay (i : Instr) (l : Life) (h : i = .deinitialize → ∀ cfg, l ≠ .init cfg) : LifeStep p i l l

end Sys2Proof.Machine
end

