-- ==== Sys2Proof/Certificates/Slice0/Obligations.lean ====
section
/-! DEFINITION. The statements for the provers. Each docstring names the rule of spec/ it formalises.

Conventions. `s.mutator = []` says that the concurrent mutator stores nothing during the request (the
default of spec 20_memory.md R69); the statements on concurrent stores are those that do without it. A
next state is written as an update of `s`, so what is not named in it is unchanged: that is the frame. -/

open Sys2Proof Sys2Proof.Machine

/-! ## Encoding -/

/-- Words written out from the encodings of spec 30_encoding.md R80, R91, R96 (the vectors of
95_test_vectors.md §2.4, §2.6, §2.8) decode to the instructions they stand for. -/
def Obligations.WrittenOutWordsDecode : Prop :=
  decodeTableWord 16 0x0000 = some (.initializeBlock none) ∧
  decodeTableWord 16 0x1000 = some .deinitialize ∧
  decodeTableWord 16 0x24A5 = some (.writeSegments 4#4 0xA5#8) ∧
  decodeTableWord 16 0x3005 = some (.writeDigit 0#4 5#8) ∧
  decodeTableWord 16 0x60FF = some (.fill 0xFF#8) ∧
  decodeTableWord 16 0x7900 = some (.readSegments 9#4) ∧
  decodeTableWord 16 0x8000 = some .refresh ∧
  decodeTableWord 16 0x9005 = some (.sendCommand 5#8) ∧
  decodeTableWord 16 0x5001 = none ∧
  decodeTableWord 16 0xB000 = some (.reservedOpAB 0x1000#13) ∧
  decodeTableWord 24 0x1003F0 = some (.frameDisplay 0 0x3F#8) ∧
  decodeTableWord 24 0xA00000 = some (.frameCmd 5#3) ∧
  decodeTableWord 8 0x0A = some .encodeDot ∧
  decodeTableWord 8 0x0D = some (.encodeReserved 0xD#4)

/-- Every well-formed instruction is decoded back from what presents it, every operand at every value.
Spec 30_encoding.md R80, R88, R91, R95, R96, R98, R106. -/
def Obligations.EveryInstructionDecodesBack : Prop :=
  ∀ i : Instr, i.wf = true → decode (encode i) = .ok i

/-- No bit of a request word is dropped: the word is given back by the instruction it decodes to. Spec
30_encoding.md R95, R96, R97, R98. -/
def Obligations.RequestWordsEncodeBack : Prop :=
  ∀ (w : RequestWord) (text : List Byte) (config : DriverConfig) (i : Instr),
    decode (.request w text config) = .ok i →
    ∃ text' config', encode i = .request w text' config'

/-- A request word with a nonzero must-be-0 field is refused, whatever the state. Spec 30_encoding.md R97
with the fields of R96: `GRID` for `OP` 0x0, 0x1, 0x4, 0x5, 0x6, 0x8 and 0x9, `DATA` for 0x1, 0x4, 0x5,
0x7 and 0x8, and `DATA[7:1]` for 0x0. -/
def Obligations.NonzeroReservedFieldRefused : Prop :=
  ∀ (s : State) (w : RequestWord) (text : List Byte) (config : DriverConfig) (later : List HostAction),
    s.host = .present (.request w text config) :: later →
    (w.extractLsb' 8 4 ≠ 0#4 ∧
        w.extractLsb' 12 4 ∈ [0x0#4, 0x1#4, 0x4#4, 0x5#4, 0x6#4, 0x8#4, 0x9#4]) ∨
      (w.extractLsb' 0 8 ≠ 0#8 ∧ w.extractLsb' 12 4 ∈ [0x1#4, 0x4#4, 0x5#4, 0x7#4, 0x8#4]) ∨
      (w.extractLsb' 1 7 ≠ 0#7 ∧ w.extractLsb' 12 4 = 0x0#4) →
    step s = .refused .reservedField

/-- The reserved `OP` values are refused and given no status. Spec 30_encoding.md R98. -/
def Obligations.ReservedOpsRefused : Prop :=
  (∀ (s : State) (w : RequestWord) (text : List Byte) (config : DriverConfig) (later : List HostAction),
    s.host = .present (.request w text config) :: later →
    0xA ≤ (w.extractLsb' 12 4).toNat → step s = .refused .reservedOp) ∧
  (∀ (low : BitVec 13) (s : State), exec (.reservedOpAB low) s = .refused .reservedOp) ∧
  (∀ (low : BitVec 14) (s : State), exec (.reservedOpCF low) s = .refused .reservedOp)

/-- The symbol codes 0xD to 0xF are refused on the encoder port. Spec 30_encoding.md R84. -/
def Obligations.ReservedSymbolsRefused : Prop :=
  (∀ (s : State) (sym : BitVec 4) (later : List HostAction),
    s.host = .present (.encode sym) :: later → 0xD ≤ sym.toNat → step s = .refused .reservedSymbol) ∧
  (∀ (sym : BitVec 4) (s : State), exec (.encodeReserved sym) s = .refused .reservedSymbol)

/-- The three classes of control words, for every mask: a word with the mask of a grid is a display word, a
zero mask with a zero pattern a command-only word, and every other word neither, be its mask zero with
another pattern or a mask with two or more bits set. Spec 30_encoding.md §R90, §R94. -/
def Obligations.PackedWordsHaveTheirClass : Prop :=
  ∀ (cmd : CommandCode) (seg : SegmentPattern),
    (∀ g : GridIndex, classifyWord (packWord cmd (gridMask g) seg) = .display cmd g seg) ∧
    classifyWord (packWord cmd 0#9 0#8) = .commandOnly cmd ∧
    (seg ≠ 0#8 → classifyWord (packWord cmd 0#9 seg) = .other) ∧
    (∀ mask : GridMask, mask ≠ 0#9 → (∀ g : GridIndex, mask ≠ gridMask g) →
      classifyWord (packWord cmd mask seg) = .other)

/-! ## The combinational ports -/

/-- Each symbol code gives its entry of `SEG_LUT` on the encoder port, in any lifecycle state, and
nothing else changes; `DOT` is 0x80 and `BLANK` 0x00 for every table, and a reserved code is refused.
Spec 40_datapath.md R120. -/
def Obligations.EncodePortGivesTheTableEntry : Prop :=
  ∀ (s : State) (sym : BitVec 4),
    exec .encodeDigit0 s = .next { s with portOut := .pattern s.params.segLut.d0 } ∧
    exec .encodeDigit1 s = .next { s with portOut := .pattern s.params.segLut.d1 } ∧
    exec .encodeDigit2 s = .next { s with portOut := .pattern s.params.segLut.d2 } ∧
    exec .encodeDigit3 s = .next { s with portOut := .pattern s.params.segLut.d3 } ∧
    exec .encodeDigit4 s = .next { s with portOut := .pattern s.params.segLut.d4 } ∧
    exec .encodeDigit5 s = .next { s with portOut := .pattern s.params.segLut.d5 } ∧
    exec .encodeDigit6 s = .next { s with portOut := .pattern s.params.segLut.d6 } ∧
    exec .encodeDigit7 s = .next { s with portOut := .pattern s.params.segLut.d7 } ∧
    exec .encodeDigit8 s = .next { s with portOut := .pattern s.params.segLut.d8 } ∧
    exec .encodeDigit9 s = .next { s with portOut := .pattern s.params.segLut.d9 } ∧
    exec .encodeDot s = .next { s with portOut := .pattern 0x80#8 } ∧
    exec .encodeDash s = .next { s with portOut := .pattern s.params.segLut.dash } ∧
    exec .encodeBlank s = .next { s with portOut := .pattern 0x00#8 } ∧
    exec (.encodeReserved sym) s = .refused .reservedSymbol

/-- Under the default `SEG_BIT` and `SEG_LUT`, each symbol lights exactly the segments of its row. The
shapes are general knowledge by the spec's own mark (PRESUMED, log 8). Spec 30_encoding.md §1. -/
def Obligations.DefaultTableLightsTheListedSegments : Prop :=
  ∀ (seg : Segment),
    let lit (sym : Symbol) := segmentLit defaultParams (segPattern defaultSegLut sym) seg
    lit .d0 = decide (seg ∈ [Segment.a, .b, .c, .d, .e, .f]) ∧
    lit .d1 = decide (seg ∈ [Segment.b, .c]) ∧
    lit .d2 = decide (seg ∈ [Segment.a, .b, .d, .e, .g]) ∧
    lit .d3 = decide (seg ∈ [Segment.a, .b, .c, .d, .g]) ∧
    lit .d4 = decide (seg ∈ [Segment.b, .c, .f, .g]) ∧
    lit .d5 = decide (seg ∈ [Segment.a, .c, .d, .f, .g]) ∧
    lit .d6 = decide (seg ∈ [Segment.a, .c, .d, .e, .f, .g]) ∧
    lit .d7 = decide (seg ∈ [Segment.a, .b, .c]) ∧
    lit .d8 = decide (seg ∈ [Segment.a, .b, .c, .d, .e, .f, .g]) ∧
    lit .d9 = decide (seg ∈ [Segment.a, .b, .c, .d, .f, .g]) ∧
    lit .dot = decide (seg = .dp) ∧
    lit .dash = decide (seg = .g) ∧
    lit .blank = false

/-- `SELECT(g)` gives `1 << (8 - g)` for `g` up to 8 and `INVALID_GRID` above, and nothing else changes.
Spec 40_datapath.md R121, 30_encoding.md R86. -/
def Obligations.SelectPortGivesOneHotMaskOrInvalidGrid : Prop :=
  ∀ (g : BitVec 4) (s : State),
    (g.toNat ≤ 8 → exec (.select g) s = .next { s with portOut := .mask (1#9 <<< (8 - g.toNat)) }) ∧
    (9 ≤ g.toNat → exec (.select g) s = .next { s with portOut := .portStatus .invalidGrid })

/-- `PACK` gives the concatenation of its three operands, for every operand, and nothing else changes.
Spec 40_datapath.md R122, 30_encoding.md R89. -/
def Obligations.PackPortConcatenatesItsFields : Prop :=
  ∀ (cmd : CommandCode) (mask : GridMask) (seg : SegmentPattern) (s : State),
    exec (.pack cmd mask seg) s = .next { s with
      portOut := .word (BitVec.ofNat 20 (cmd.toNat * 2 ^ 17 + mask.toNat * 2 ^ 8 + seg.toNat)) }

/-- The fields of a packed word read back exactly. Spec 30_encoding.md R88, R89. -/
def Obligations.PackedFieldsReadBack : Prop :=
  ∀ (cmd : CommandCode) (mask : GridMask) (seg : SegmentPattern),
    (packWord cmd mask seg).extractLsb' 17 3 = cmd ∧
    (packWord cmd mask seg).extractLsb' 8 9 = mask ∧
    (packWord cmd mask seg).extractLsb' 0 8 = seg

/-- `FRAME(W)` gives the bytes of `W << 4` under `LOW` and of `W` under `HIGH`, the pad bits 0, and
nothing else changes. Spec 40_datapath.md R123, 30_encoding.md R91, R93. -/
def Obligations.FramePortPadsAndSplits : Prop :=
  ∀ (w : ControlWord) (s : State),
    (s.params.framePad = .low → exec (.frame w) s = .next { s with
      portOut := .frame ⟨w.extractLsb' 12 8, w.extractLsb' 4 8, w.extractLsb' 0 8 <<< 4⟩ }) ∧
    (s.params.framePad = .high → exec (.frame w) s = .next { s with
      portOut := .frame ⟨(w.extractLsb' 16 4).setWidth 8, w.extractLsb' 8 8, w.extractLsb' 0 8⟩ })

/-- Framing loses no bit, under either pad position. Spec 40_datapath.md §R123. -/
def Obligations.FramingIsUndone : Prop :=
  ∀ (pad : PadPosition) (w : ControlWord), unframe pad (frameBytes pad w) = w

/-- The closed forms of the three bytes, under `LOW` and under `HIGH`. Spec 30_encoding.md R92, R93,
40_datapath.md R124. -/
def Obligations.PackFrameClosedForms : Prop :=
  ∀ (cmd : CommandCode) (mask : GridMask) (seg : SegmentPattern),
    packFrame .low cmd mask seg =
      ⟨(cmd.setWidth 8 <<< 5) ||| (mask >>> 4).setWidth 8,
       ((mask &&& 0xF#9).setWidth 8 <<< 4) ||| (seg >>> 4),
       (seg &&& 0xF#8) <<< 4⟩ ∧
    packFrame .high cmd mask seg =
      ⟨(cmd.setWidth 8 <<< 1) ||| (mask >>> 8).setWidth 8, (mask &&& 0xFF#9).setWidth 8, seg⟩

/-- The wire carries the bits of byte 0, then byte 1, then byte 2, each most significant bit first.
Spec 20_memory.md R62. -/
def Obligations.WireCarriesMostSignificantBitFirst : Prop :=
  ∀ f : Frame,
    wireBits f =
      (List.range 8).map (fun k => f.b0.getLsbD (7 - k)) ++
      (List.range 8).map (fun k => f.b1.getLsbD (7 - k)) ++
      (List.range 8).map (fun k => f.b2.getLsbD (7 - k))

/-- A display frame gives back its grid and pattern with command 0, and a command-only frame its
command, under either pad position. Spec 40_datapath.md R125. -/
def Obligations.PackedFramesUnpack : Prop :=
  ∀ (pad : PadPosition) (g : GridIndex) (seg : SegmentPattern) (cmd : CommandCode),
    classifyWord (unframe pad (packFrame pad 0#3 (gridMask g) seg)) = .display 0#3 g seg ∧
    classifyWord (unframe pad (packFrame pad cmd 0#9 0#8)) = .commandOnly cmd

/-! ## Lifecycle -/

/-- A successful `INITIALIZE` from `UNINIT` or `DEINIT`: `CFG` is the configuration supplied, or the
default one, the transport is owned, the latch is driven low with its one event, every cell is blank,
and `LIFE` is `INIT`. What `CHIP_OUT` becomes is a free value (log 15), so nothing is said of it and of
its counter. Spec 44_lifecycle.md R230, 10_state.md R29. -/
def Obligations.InitializeAppliesItsConfiguration : Prop :=
  ∀ (arg : Option DriverConfig) (s : State) (c : DriverConfig),
    s.mutator = [] → (∀ cfg, s.life ≠ .init cfg) →
    c = arg.getD ⟨2000000#32, s.params.defaultPinData, s.params.defaultPinClk, s.params.defaultPinLatch,
      1500#32⟩ →
    c.clockHz ≠ 0#32 → c.settleUs ≠ 0#32 → transportAccepts s.params c = true →
    ∃ t, exec (.initializeBlock arg) s = .next t ∧
      t = { s with
        life := .init c, buf := t.buf, latch := .low, txOwned := true,
        trace := s.trace ++ [.latch .low], response := some ⟨.ok, none⟩,
        scan := none, phase := none, cur := none, chipOut := t.chipOut, draws := t.draws } ∧
      ∀ a, t.buf.load a = if a < 9 then some 0x00#8 else s.buf.load a

/-- A failing `INITIALIZE`: `INVALID_PARAM` for a zero clock rate or settle delay, checked first, and
otherwise `HARDWARE_ERROR` where the transport does not take the configuration; nothing else changes.
Spec 44_lifecycle.md §R230, 60_exceptions.md R263. -/
def Obligations.InitializeFailsWithNothingDone : Prop :=
  ∀ (arg : Option DriverConfig) (s : State) (c : DriverConfig),
    s.mutator = [] → (∀ cfg, s.life ≠ .init cfg) →
    c = arg.getD ⟨2000000#32, s.params.defaultPinData, s.params.defaultPinClk, s.params.defaultPinLatch,
      1500#32⟩ →
    (c.clockHz = 0#32 ∨ c.settleUs = 0#32 →
      exec (.initializeBlock arg) s = .next { s with
        response := some ⟨.invalidParam, none⟩, scan := none, phase := none, cur := none }) ∧
    (c.clockHz ≠ 0#32 → c.settleUs ≠ 0#32 → transportAccepts s.params c = false →
      exec (.initializeBlock arg) s = .next { s with
        response := some ⟨.hardwareError, none⟩, scan := none, phase := none, cur := none })

/-- In `INIT`, `INITIALIZE` answers `OK` and changes no state and no trace, whatever configuration it
carries. Spec 44_lifecycle.md R232. -/
def Obligations.InitializeIsIdempotent : Prop :=
  ∀ (arg : Option DriverConfig) (cfg : DriverConfig) (s : State),
    s.mutator = [] → s.life = .init cfg →
    exec (.initializeBlock arg) s = .next { s with
      response := some ⟨.ok, none⟩, scan := none, phase := none, cur := none }

/-- `DEINITIALIZE` in `INIT`: nine blank display frames with the configured settle delay and then the
release; no cell holds a value, the line is undriven, the transport is released, and the last word the
chip took is grid 8 with no segment. Elsewhere it answers `NOT_INITIALIZED` and emits nothing. Spec
44_lifecycle.md R231. -/
def Obligations.DeinitializeBlanksAndReleases : Prop :=
  ∀ s : State, s.mutator = [] →
    (∀ cfg, s.life = .init cfg → s.txOwned = true → s.latch = .low →
      exec .deinitialize s = .next { s with
        life := .deinit, buf := [], latch := .undriven, txOwned := false,
        trace := s.trace ++ sweepEvents s.params.framePad cfg.settleUs (fun _ => 0x00#8) ++ [.release],
        chipOut := packWord 0#3 0x001#9 0x00#8, response := some ⟨.ok, none⟩,
        scan := none, phase := none, cur := none }) ∧
    ((∀ cfg, s.life ≠ .init cfg) → exec .deinitialize s = .next { s with
      response := some ⟨.notInitialized, none⟩, scan := none, phase := none, cur := none })

/-- Outside `INIT` every request but `INITIALIZE` returns `NOT_INITIALIZED`, stores nothing and emits
nothing. Spec 60_exceptions.md R262, 44_lifecycle.md R233. -/
def Obligations.RequestsNeedInit : Prop :=
  ∀ (i : Instr) (s : State),
    isRequest i = true → (∀ arg, i ≠ .initializeBlock arg) →
    s.mutator = [] → (∀ cfg, s.life ≠ .init cfg) →
    exec i s = .next { s with
      response := some ⟨.notInitialized, none⟩, scan := none, phase := none, cur := none }

/-- Every change of `LIFE` and of `CFG` is one of the listed transitions, for every instruction and
every state. Spec 10_state.md R25, R27. -/
def Obligations.LifecycleChangesOnlyAsListed : Prop :=
  ∀ (i : Instr) (s t : State), exec i s = .next t → LifeStep s.params i s.life t.life

/-! ## The buffer -/

/-- `WRITE_SEGMENTS` stores its pattern to the named cell and to no other; a grid of 9 to 15 answers
`INVALID_GRID` and stores nothing, and outside `INIT` the answer is `NOT_INITIALIZED`. Spec
42_buffer_ops.md R160. -/
def Obligations.WriteSegmentsStoresThePattern : Prop :=
  ∀ (g : BitVec 4) (p : Byte) (s : State), s.mutator = [] →
    (∀ cfg, s.life = .init cfg → g.toNat ≤ 8 → ∃ t, exec (.writeSegments g p) s = .next t ∧
      t = { s with buf := t.buf, response := some ⟨.ok, none⟩, scan := none, phase := none, cur := none } ∧
      ∀ a, t.buf.load a = if a = g.toNat then some p else s.buf.load a) ∧
    (∀ cfg, s.life = .init cfg → 9 ≤ g.toNat → exec (.writeSegments g p) s = .next { s with
      response := some ⟨.invalidGrid, none⟩, scan := none, phase := none, cur := none }) ∧
    ((∀ cfg, s.life ≠ .init cfg) → exec (.writeSegments g p) s = .next { s with
      response := some ⟨.notInitialized, none⟩, scan := none, phase := none, cur := none })

/-- `WRITE_DIGIT` stores the table entry of its digit to the named cell and to no other; a grid of 9 to
15 answers `INVALID_GRID`, checked first, a digit above 9 `INVALID_PARAM`, and outside `INIT` the answer
is `NOT_INITIALIZED`. Spec 42_buffer_ops.md R161. -/
def Obligations.WriteDigitStoresTheEncodedDigit : Prop :=
  ∀ (g : BitVec 4) (d : Byte) (s : State), s.mutator = [] →
    (∀ cfg, s.life = .init cfg → g.toNat ≤ 8 → d.toNat ≤ 9 →
      ∃ t sym, exec (.writeDigit g d) s = .next t ∧ symbolOfCode (d.setWidth 4) = some sym ∧
        t = { s with buf := t.buf, response := some ⟨.ok, none⟩, scan := none, phase := none, cur := none } ∧
        ∀ a, t.buf.load a = if a = g.toNat then some (segPattern s.params.segLut sym) else s.buf.load a) ∧
    (∀ cfg, s.life = .init cfg → 9 ≤ g.toNat → exec (.writeDigit g d) s = .next { s with
      response := some ⟨.invalidGrid, none⟩, scan := none, phase := none, cur := none }) ∧
    (∀ cfg, s.life = .init cfg → g.toNat ≤ 8 → 10 ≤ d.toNat → exec (.writeDigit g d) s = .next { s with
      response := some ⟨.invalidParam, none⟩, scan := none, phase := none, cur := none }) ∧
    ((∀ cfg, s.life ≠ .init cfg) → exec (.writeDigit g d) s = .next { s with
      response := some ⟨.notInitialized, none⟩, scan := none, phase := none, cur := none })

/-- `CLEAR` makes every cell blank and `FILL(p)` makes every cell `p`; nothing else changes. Outside
`INIT` both answer `NOT_INITIALIZED`. Spec 42_buffer_ops.md R164, R165. -/
def Obligations.ClearAndFillSetEveryCell : Prop :=
  ∀ (p : Byte) (s : State), s.mutator = [] →
    (∀ cfg, s.life = .init cfg →
      (∃ t, exec .clear s = .next t ∧
        t = { s with buf := t.buf, response := some ⟨.ok, none⟩, scan := none, phase := none, cur := none } ∧
        ∀ a, t.buf.load a = if a < 9 then some 0x00#8 else s.buf.load a) ∧
      (∃ t, exec (.fill p) s = .next t ∧
        t = { s with buf := t.buf, response := some ⟨.ok, none⟩, scan := none, phase := none, cur := none } ∧
        ∀ a, t.buf.load a = if a < 9 then some p else s.buf.load a)) ∧
    ((∀ cfg, s.life ≠ .init cfg) →
      exec .clear s = .next { s with
        response := some ⟨.notInitialized, none⟩, scan := none, phase := none, cur := none } ∧
      exec (.fill p) s = .next { s with
        response := some ⟨.notInitialized, none⟩, scan := none, phase := none, cur := none })

/-- `READ_SEGMENTS` returns the cell in `RDATA` and changes nothing; a grid of 9 to 15 answers
`INVALID_GRID`, and outside `INIT` the answer is `NOT_INITIALIZED`, both with no `RDATA`. Spec
42_buffer_ops.md R166. -/
def Obligations.ReadSegmentsReturnsTheCell : Prop :=
  ∀ (g : BitVec 4) (s : State), s.mutator = [] →
    (∀ cfg v, s.life = .init cfg → g.toNat ≤ 8 → s.buf.load g.toNat = some v →
      exec (.readSegments g) s = .next { s with
        response := some ⟨.ok, some v⟩, scan := none, phase := none, cur := none }) ∧
    (∀ cfg, s.life = .init cfg → 9 ≤ g.toNat → exec (.readSegments g) s = .next { s with
      response := some ⟨.invalidGrid, none⟩, scan := none, phase := none, cur := none }) ∧
    ((∀ cfg, s.life ≠ .init cfg) → exec (.readSegments g) s = .next { s with
      response := some ⟨.notInitialized, none⟩, scan := none, phase := none, cur := none })

/-- `WRITE_STRING` in `INIT` always answers `OK`; cell `g` then holds the `g`-th pattern of the text and
every cell beyond the text is blank. Outside `INIT` it answers `NOT_INITIALIZED`. The bytes are ASCII with
a NUL at the end (log 21). Spec 42_buffer_ops.md R162, R163. -/
def Obligations.WriteStringRendersTheText : Prop :=
  ∀ (text : List Byte) (s : State), s.mutator = [] →
    (∀ cfg, s.life = .init cfg → ∃ t, exec (.writeString text) s = .next t ∧
      t = { s with buf := t.buf, response := some ⟨.ok, none⟩, scan := none, phase := none, cur := none } ∧
      ∀ a, t.buf.load a =
        if a < 9 then some ((textPatterns s.params.segLut text [])[a]?.getD 0x00#8) else s.buf.load a) ∧
    ((∀ cfg, s.life ≠ .init cfg) → exec (.writeString text) s = .next { s with
      response := some ⟨.notInitialized, none⟩, scan := none, phase := none, cur := none })

/-- At most 9 grid-advancing characters take effect, and everything after the 9th is dropped. Spec
30_encoding.md R102. -/
def Obligations.WriteStringDropsWhatFollowsNineGlyphs : Prop :=
  ∀ (text more : List Byte) (s : State),
    9 ≤ text.countP (fun c => decide (c = 0x20#8 ∨ c = 0x2D#8 ∨ (0x30 ≤ c.toNat ∧ c.toNat ≤ 0x39))) →
    exec (.writeString (text ++ more)) s = exec (.writeString text) s

/-- A byte outside the recognized set is skipped, and a NUL ends the input. Spec 30_encoding.md §7,
42_buffer_ops.md §R162. -/
def Obligations.WriteStringSkipsOthersAndStopsAtNul : Prop :=
  ∀ (before after : List Byte) (c : Byte) (s : State),
    (c ∉ [0x00#8, 0x20#8, 0x2D#8, 0x2E#8] → ¬ (0x30 ≤ c.toNat ∧ c.toNat ≤ 0x39) →
      exec (.writeString (before ++ c :: after)) s = exec (.writeString (before ++ after)) s) ∧
    exec (.writeString (before ++ 0x00#8 :: after)) s = exec (.writeString before) s

/-- The two pseudo-requests, in every state and under every concurrent mutator. Spec 30_encoding.md R105. -/
def Obligations.PseudoRequestsEqualTheirExpansion : Prop :=
  (∀ (g : BitVec 4) (d : Byte) (sym : Symbol) (s : State),
    d.toNat ≤ 9 → symbolOfCode (d.setWidth 4) = some sym →
    exec (.writeDigit g d) s = exec (.writeSegments g (segPattern s.params.segLut sym)) s) ∧
  (∀ s : State, exec .clear s = exec (.fill 0x00#8) s)

/-- A request that answers anything but `OK` has changed nothing but its answer. Spec 60_exceptions.md
R260, R265, 42_buffer_ops.md R168. -/
def Obligations.FailedRequestsChangeNothing : Prop :=
  ∀ (i : Instr) (s t : State) (r : Response),
    isRequest i = true → s.mutator = [] → exec i s = .next t → t.response = some r → r.status ≠ .ok →
    t = { s with response := some r, scan := none, phase := none, cur := none }

/-- No instruction ever answers `INVALID_SEGMENT`. Spec 60_exceptions.md R264. -/
def Obligations.InvalidSegmentIsNeverReturned : Prop :=
  ∀ (i : Instr) (s t : State) (r : Response),
    exec i s = .next t → t.response = some r → t.response ≠ s.response → r.status ≠ .invalidSegment

/-- The six requests on the buffer transmit nothing: the trace, the latch line, the transport and the
chip's outputs are as before, under every concurrent mutator. Spec 20_memory.md R67. -/
def Obligations.BufferRequestsTransmitNothing : Prop :=
  ∀ (s t : State) (g : BitVec 4) (p : Byte) (text : List Byte),
    exec (.writeSegments g p) s = .next t ∨ exec (.writeDigit g p) s = .next t ∨
      exec (.writeString text) s = .next t ∨ exec .clear s = .next t ∨ exec (.fill p) s = .next t ∨
      exec (.readSegments g) s = .next t →
    t.trace = s.trace ∧ t.latch = s.latch ∧ t.txOwned = s.txOwned ∧ t.chipOut = s.chipOut ∧
      t.life = s.life ∧ t.portOut = s.portOut

/-- The direct handle loads and stores any cell in `INIT`, changes nothing else, and is refused outside
`INIT` or with an index of 9 or more. Spec 42_buffer_ops.md R167. -/
def Obligations.DirectHandleAccessesCells : Prop :=
  ∀ (g : Nat) (v : Byte) (s : State) (later : List HostAction),
    (∀ cfg, s.life = .init cfg → s.host = .handleStore g v :: later → g < 9 →
      step s = .next { s with host := later, buf := s.buf.store g v }) ∧
    (∀ cfg, s.life = .init cfg → s.host = .handleLoad g :: later → g < 9 → s.buf.load g = some v →
      step s = .next { s with host := later, portOut := .cell v }) ∧
    (∀ cfg, s.life = .init cfg → s.host = .handleStore g v :: later ∨ s.host = .handleLoad g :: later →
      9 ≤ g → step s = .refused .handleIndex) ∧
    ((∀ cfg, s.life ≠ .init cfg) → s.host = .handleStore g v :: later ∨ s.host = .handleLoad g :: later →
      step s = .refused .handleAbsent)

/-- A store through the direct handle is seen by the next request. Spec 20_memory.md §5. -/
def Obligations.HandleStoreIsSeenByTheNextRead : Prop :=
  ∀ (g : GridIndex) (v : Byte) (text : List Byte) (config cfg : DriverConfig) (s : State)
    (later : List HostAction),
    s.mutator = [] → s.life = .init cfg →
    s.host = .handleStore g.val v ::
      .present (.request (BitVec.ofNat 16 (0x7000 + 0x100 * g.val)) text config) :: later →
    ∃ t u, step s = .next t ∧ step t = .next u ∧ u.host = later ∧ u.response = some ⟨.ok, some v⟩

/-- `RDATA` has a value only in the `OK` answer of `READ_SEGMENTS`; a read of it where it has none is
refused. That a read is an action of the host and leaves the state as it is where there is a value (log
19), and that no response stands before the first request, so that a read then is refused too (log 6),
are the model's choices. Spec 30_encoding.md §R99. -/
def Obligations.RDataIsReadableOnlyWithAValue : Prop :=
  (∀ (i : Instr) (s t : State) (st : Status) (v : Byte),
    exec i s = .next t → t.response = some ⟨st, some v⟩ → t.response ≠ s.response →
    st = .ok ∧ ∃ g, i = .readSegments g) ∧
  (∀ (s : State) (later : List HostAction), s.host = .readRData :: later →
    (∀ st v, s.response = some ⟨st, some v⟩ → step s = .next { s with host := later }) ∧
    (∀ st, s.response = some ⟨st, none⟩ → step s = .refused .rdataHasNoValue) ∧
    (s.response = none → step s = .refused .rdataHasNoValue))

/-! ## Frames and sweeps -/

/-- `REFRESH` in `INIT`: nine display frames in increasing order with the patterns of the cells, each
with its pulse and the configured settle delay; the buffer is unchanged, and the chip holds grid 8's
word. Outside `INIT` it answers `NOT_INITIALIZED` and emits nothing. What a concurrent mutator adds is
EachGridCarriesItsSample. Spec 43_refresh.md §R200, 41_transport.md §R142. -/
def Obligations.RefreshSweepsTheNineGrids : Prop :=
  ∀ s : State, s.mutator = [] →
    (∀ (cfg : DriverConfig) (pats : GridIndex → Byte),
      s.life = .init cfg → s.txOwned = true → s.latch = .low →
      (∀ g : GridIndex, s.buf.load g.val = some (pats g)) →
      exec .refresh s = .next { s with
        trace := s.trace ++ sweepEvents s.params.framePad cfg.settleUs pats,
        chipOut := packWord 0#3 0x001#9 (pats 8), response := some ⟨.ok, none⟩,
        scan := none, phase := none, cur := none }) ∧
    ((∀ cfg, s.life ≠ .init cfg) → exec .refresh s = .next { s with
      response := some ⟨.notInitialized, none⟩, scan := none, phase := none, cur := none })

/-- Every sweep has 63 events, nine of them settle delays, for every pattern. Spec 43_refresh.md §R200,
§R202. -/
def Obligations.SweepsHaveOneShape : Prop :=
  ∀ (pad : PadPosition) (settleUs : U32) (pats : GridIndex → Byte),
    (sweepEvents pad settleUs pats).length = 63 ∧
    waitBoundUs (sweepEvents pad settleUs pats) = 9 * (1 + settleUs.toNat) ∧
    wirePeriods (sweepEvents pad settleUs pats) = 9 * 24

/-- `SEND_COMMAND(c)` in `INIT` sends one command-only frame with its pulse and no settle delay, touches
no cell, and for a code above 7 answers `INVALID_PARAM` and sends nothing. Outside `INIT` it answers
`NOT_INITIALIZED`. Spec 43_refresh.md R201. -/
def Obligations.SendCommandSendsOneFrame : Prop :=
  ∀ (c : Byte) (s : State), s.mutator = [] →
    (∀ cfg, s.life = .init cfg → c.toNat ≤ 7 → s.txOwned = true → s.latch = .low →
      exec (.sendCommand c) s = .next { s with
        trace := s.trace ++ frameEvents (packFrame s.params.framePad (c.setWidth 3) 0#9 0#8),
        chipOut := packWord (c.setWidth 3) 0#9 0#8, response := some ⟨.ok, none⟩,
        scan := none, phase := none, cur := none }) ∧
    (∀ cfg, s.life = .init cfg → 8 ≤ c.toNat → exec (.sendCommand c) s = .next { s with
      response := some ⟨.invalidParam, none⟩, scan := none, phase := none, cur := none }) ∧
    ((∀ cfg, s.life ≠ .init cfg) → exec (.sendCommand c) s = .next { s with
      response := some ⟨.notInitialized, none⟩, scan := none, phase := none, cur := none })

/-- A wire frame put on the link by the internal `TRANSMIT`: three bytes, the pulse of at least 1 µs, and
at its fall the chip takes the word; outside its precondition it is stuck. That the frame rows of the
opcode table mean this is the model's choice (log 3), and so is the stop (log 4). The phase is that of a
sweep in progress (log 16). Spec 41_transport.md §R140, §R142. -/
def Obligations.WireFramesAreTransmitted : Prop :=
  ∀ (s : State) (g : GridIndex) (seg : SegmentPattern) (cmd : CommandCode),
    (s.txOwned = true → s.latch = .low →
      exec (.frameDisplay g seg) s = .next { s with
        trace := s.trace ++ frameEvents (packFrame s.params.framePad 0#3 (gridMask g) seg),
        chipOut := packWord 0#3 (gridMask g) seg, phase := s.scan.map fun _ => .latchLo } ∧
      exec (.frameCmd cmd) s = .next { s with
        trace := s.trace ++ frameEvents (packFrame s.params.framePad cmd 0#9 0#8),
        chipOut := packWord cmd 0#9 0#8, phase := s.scan.map fun _ => .latchLo }) ∧
    (s.txOwned = false ∨ s.latch ≠ .low →
      exec (.frameDisplay g seg) s = .fault .transmitNotReady ∧
      exec (.frameCmd cmd) s = .fault .transmitNotReady)

/-- After a sweep only grid 8 is lit, and after a command no grid is, in the spec's abstraction of the
chip (log 15). Spec 43_refresh.md §R203, 41_transport.md §R142. -/
def Obligations.OnlyGridEightStaysLit : Prop :=
  ∀ (cfg : DriverConfig) (s t : State) (c : Byte) (g : GridIndex) (seg : Segment),
    s.life = .init cfg →
    (exec .refresh s = .next t → displayLit s.params t.chipOut g seg = true → g = 8) ∧
    (c.toNat ≤ 7 → exec (.sendCommand c) s = .next t → displayLit s.params t.chipOut g seg = false)

/-! ## The concurrent mutator -/

/-- A sweep under concurrent stores: grid `g` carries the value its cell holds after the stores of the
first `g + 1` interleaving points, whole; the later stores stay in the buffer. So a sweep may be torn
between grids and never within one. Spec 20_memory.md R70 (points as in log 17). -/
def Obligations.EachGridCarriesItsSample : Prop :=
  ∀ (cfg : DriverConfig) (pats : GridIndex → Byte) (s : State),
    s.params.concurrentMutator = true → s.life = .init cfg → s.txOwned = true → s.latch = .low →
    (∀ g : GridIndex, (s.bufAfterTurns (g.val + 1)).load g.val = some (pats g)) →
    exec .refresh s = .next { s with
      buf := s.bufAfterTurns 10, mutator := s.mutator.drop 10,
      trace := s.trace ++ sweepEvents s.params.framePad cfg.settleUs pats,
      chipOut := packWord 0#3 0x001#9 (pats 8), response := some ⟨.ok, none⟩,
      scan := none, phase := none, cur := none }

/-- Loads and stores of one cell fall in one order with the concurrent stores. `READ_SEGMENTS` returns
what its cell holds after the stores before it, and a store after that of `WRITE_SEGMENTS` stands. The
stores of `CLEAR` and `FILL`, and of the clear of `WRITE_STRING`, are in ascending order: cell `g` ends
as if stored right after the first `g + 1` interleaving points, with the concurrent stores of the later
points on it. That a point stands before each access and before the answer is the model's choice (log
17). Spec 20_memory.md §R66, §R70 (b). -/
def Obligations.CellAccessesFallInOneOrder : Prop :=
  (∀ (cfg : DriverConfig) (g : BitVec 4) (p v : Byte) (s : State),
    s.params.concurrentMutator = true → s.life = .init cfg → g.toNat ≤ 8 →
    ((s.bufAfterTurns 1).load g.toNat = some v →
      exec (.readSegments g) s = .next { s with
        buf := s.bufAfterTurns 2, mutator := s.mutator.drop 2,
        response := some ⟨.ok, some v⟩, scan := none, phase := none, cur := none }) ∧
    exec (.writeSegments g p) s = .next { s with
      buf := ((s.bufAfterTurns 1).store g.toNat p).afterStores ((s.mutator.drop 1).headD []),
      mutator := s.mutator.drop 2,
      response := some ⟨.ok, none⟩, scan := none, phase := none, cur := none }) ∧
  (∀ (cfg : DriverConfig) (p : Byte) (i : Instr) (s : State),
    s.params.concurrentMutator = true → s.life = .init cfg →
    i = .fill p ∨ (p = 0x00#8 ∧ (i = .clear ∨ i = .writeString [])) →
    ∃ t, exec i s = .next t ∧
      t = { s with
        buf := t.buf, mutator := s.mutator.drop 10,
        response := some ⟨.ok, none⟩, scan := none, phase := none, cur := none } ∧
      (∀ g : GridIndex, t.buf.load g.val =
        ((s.buf.store g.val p).afterStores ((s.mutator.take 10).drop (g.val + 1)).flatten).load g.val) ∧
      ∀ a, 9 ≤ a → t.buf.load a = s.buf.load a)

/-- A concurrent store that falls between the read and the write of a `.` step is lost, on the text `1.`:
whatever byte it puts in the cell, the cell ends as the digit with its point. Eleven empty points stand
before it, the nine of the clear, the digit's and the `.`'s first: the points are the model's choice (log
17). Spec 20_memory.md §R72. -/
def Obligations.StoreBetweenReadAndWriteOfPointIsLost : Prop :=
  ∀ (cfg : DriverConfig) (v : Byte) (s : State),
    s.params.concurrentMutator = true → s.life = .init cfg →
    s.mutator = List.replicate 11 [] ++ [[⟨0, v⟩]] →
    ∃ t, exec (.writeString [0x31#8, 0x2E#8]) s = .next t ∧ t.mutator = [] ∧
      t.response = some ⟨.ok, none⟩ ∧
      t.buf.load 0 = some (s.params.segLut.d1 ||| 0x80#8)

/-- The first concurrent store of a request, at any of its interleaving points, is refused while `LIFE` is
not `INIT`, during `INITIALIZE`, during `DEINITIALIZE`, and where there is no concurrent mutator. In
`INIT` the state is one that a run reaches: every cell has a value, the transport is owned and the latch
is low (the invariant). The points are the model's choice (log 17). Spec 20_memory.md §R71, 00_scope.md
§R12. -/
def Obligations.ConcurrentStoresAreBarred : Prop :=
  ∀ (i : Instr) (s : State) (k : Nat) (w : ConcurrentStore) (ws : List ConcurrentStore)
    (later : List (List ConcurrentStore)),
    isRequest i = true → s.mutator = List.replicate k [] ++ (w :: ws) :: later →
    k < interleavingPoints i s →
    s.params.concurrentMutator = false ∨ (∀ cfg, s.life ≠ .init cfg) ∨
      (∃ arg, i = .initializeBlock arg) ∨ i = .deinitialize →
    (∀ cfg, s.life = .init cfg → s.buf.complete ∧ s.txOwned = true ∧ s.latch = .low) →
    exec i s = .refused .concurrentStoreBarred

/-! ## The machine -/

/-- A step whose next action presents an instruction is that instruction's meaning, on the state with
the action taken from the host's list; with no action pending the state stays as it is. Spec
10_state.md §1 (R23), 60_exceptions.md §4 (R274); the list is the model's (log 1). -/
def Obligations.StepRunsThePresentedInstruction : Prop :=
  (∀ (s : State) (input : PortInput) (i : Instr) (later : List HostAction),
    s.host = .present input :: later → decode input = .ok i →
    step s = exec i { s with host := later }) ∧
  (∀ s : State, s.host = [] → step s = .next s)

/-- The state after reset, at the values the spec gives. Spec 10_state.md R36. -/
def Obligations.ResetLeavesTheListedState : Prop :=
  State.reset.life = .uninit ∧ (∀ a, State.reset.buf.load a = none) ∧ State.reset.latch = .undriven ∧
    State.reset.txOwned = false ∧ State.reset.scan = none ∧ State.reset.phase = none ∧
    State.reset.cur = none ∧ State.reset.trace = [] ∧
    State.reset.params.segLut = defaultSegLut

/-- Reset between requests puts the block, and only the block, at its reset values. That the parameters
and the pending actions stay is the model's (log 20). Spec 70_reset_and_hazards.md §1. -/
def Obligations.HardResetRestoresTheBlock : Prop :=
  ∀ (s : State) (later : List HostAction),
    s.host = .hardReset :: later →
    ∃ t, step s = .next t ∧
      t.life = .uninit ∧ (∀ a, t.buf.load a = none) ∧ t.latch = .undriven ∧ t.txOwned = false ∧
      t.trace = [] ∧ t.scan = none ∧ t.phase = none ∧ t.cur = none ∧
      t.params = s.params ∧ t.host = later ∧ t.mutator = s.mutator

/-- The invariant holds after reset. Spec 10_state.md §6. -/
def Obligations.ResetMeetsTheInvariant : Prop :=
  State.reset.Inv ∧ framed State.reset.params.framePad State.reset.trace = true

/-- Every step from a state of the invariant ends in a state of the invariant: the buffer in canonical
form, no transient left, and in each lifecycle state the buffer, the latch line, the transport and the
configuration as that state requires. Spec 10_state.md R22, R24, R27, R30, R31, 44_lifecycle.md R231. -/
def Obligations.EveryStepKeepsTheInvariant : Prop :=
  ∀ s t : State, s.Inv → step s = .next t → t.Inv

/-- Every step from a state of the invariant neither gets stuck nor loads a cell without a value: `TRANSMIT`
meets its precondition and every sample finds a value. Spec 41_transport.md §R140, 10_state.md §6. -/
def Obligations.InvariantRulesOutTheModelsOwnStops : Prop :=
  ∀ s : State, s.Inv →
    (∀ r, (∀ f later, s.host ≠ .present (.link f) :: later) → step s ≠ .fault r) ∧
    step s ≠ .refused .cellHasNoValue

/-- Frames never interleave: every step keeps the trace a sequence of whole frames the block may emit,
each with its three bytes, one latch pulse and a hold of at least 1 µs in one piece. Spec 20_memory.md
R74, 41_transport.md R141, R145, 30_encoding.md R90. -/
def Obligations.EveryStepKeepsFramesWhole : Prop :=
  ∀ s t : State, framed s.params.framePad s.trace = true → step s = .next t →
    framed t.params.framePad t.trace = true

/-- No step changes a parameter: one pad position is kept for every frame, and `SEG_LUT` is constant.
Spec 70_reset_and_hazards.md R295, 20_memory.md R76. -/
def Obligations.NoStepChangesAParameter : Prop :=
  ∀ s t : State, step s = .next t → t.params = s.params

/-- Each instruction appends at most 64 events to the trace and changes none of those before. Spec
00_scope.md R10, 70_reset_and_hazards.md §4. -/
def Obligations.TraceGrowsByAtMost64Events : Prop :=
  ∀ (i : Instr) (s t : State), exec i s = .next t →
    ∃ es : List Event, t.trace = s.trace ++ es ∧ es.length ≤ 64

/-- No instruction reads `CHIP_OUT`: two runs that differ only in it end alike but for it. Spec
41_transport.md R146. -/
def Obligations.NoInstructionReadsChipOut : Prop :=
  ∀ (i : Instr) (s : State) (w : ControlWord),
    match exec i s with
    | .next t => ∃ w', exec i { s with chipOut := w } = .next { t with chipOut := w' }
    | .fault r => exec i { s with chipOut := w } = .fault r
    | .refused r => exec i { s with chipOut := w } = .refused r

/-- No instruction reads the response of an earlier request, nor what a port presented: two runs that
differ only in these end alike but for them. Spec 10_state.md R26. -/
def Obligations.NoInstructionReadsAnEarlierResponse : Prop :=
  ∀ (i : Instr) (s : State) (r : Option Response) (out : PortOutput),
    match exec i s with
    | .next t => ∃ r' out',
        exec i { s with response := r, portOut := out } = .next { t with response := r', portOut := out' }
    | .fault e => exec i { s with response := r, portOut := out } = .fault e
    | .refused e => exec i { s with response := r, portOut := out } = .refused e

/-- The lower bound of one sweep at the default clock rate and settle delay is 13,617 µs. Spec
43_refresh.md §R205, 70_reset_and_hazards.md §4. -/
def Obligations.DefaultSweepTakesAtLeast13617Us : Prop :=
  ∀ (p : Params) (pad : PadPosition) (pats : GridIndex → Byte),
    timeBoundUs (defaultCfg p).clockHz (sweepEvents pad (defaultCfg p).settleUs pats) = 13617

/-- A request that goes on takes from the mutator's list one entry for each of its interleaving points,
whatever stores they hold: `interleavingPoints` counts the accesses of cells that each rule makes, and one
more for the answer. That the points stand there is the model's choice (log 17). Spec 20_memory.md §R66,
§R70. -/
def Obligations.RequestsTakeTheirInterleavingPoints : Prop :=
  ∀ (i : Instr) (s t : State), isRequest i = true → exec i s = .next t →
    t.mutator = s.mutator.drop (interleavingPoints i s)
end

