-- ==== Sys2Proof/Laws/Memory.lean ====
section
/-! SUPPORT. The laws of the buffer: a load after a store, and that every memory operation keeps the
canonical form. -/

namespace Sys2Proof.Machine

@[simp] theorem load_nil (a : Nat) : Memory.load [] a = none := rfl

/-- A store changes what its own address reads as, and no other. -/
theorem load_store (m : Memory) (a b : Nat) (v : Byte) :
    (m.store a v).load b = if b = a then some v else m.load b := by
  have swap : (a = b) = (b = a) := propext eq_comm
  induction m with
  | nil => simp [Memory.store, Memory.load, swap]
  | cons c rest ih =>
    rcases Nat.lt_trichotomy a c.1 with h | h | h
    · simp [Memory.store, Memory.load, h, swap]
    · subst h
      by_cases hb : b = c.1
      · simp [Memory.store, Memory.load, hb]
      · simp [Memory.store, Memory.load, hb, Ne.symm hb]
    · have h1 : ¬ a < c.1 := by omega
      have h2 : a ≠ c.1 := by omega
      by_cases hb : b = a
      · subst hb
        simp [Memory.store, Memory.load, h1, h2, h2.symm, ih]
      · simp [Memory.store, Memory.load, h1, h2, hb, ih]

@[simp] theorem load_store_same (m : Memory) (a : Nat) (v : Byte) : (m.store a v).load a = some v := by
  simp [load_store]

theorem load_store_other (m : Memory) {a b : Nat} (v : Byte) (h : b ≠ a) :
    (m.store a v).load b = m.load b := by
  simp [load_store, h]

/-- The entries after a store are the stored one and entries of before. -/
theorem mem_store {m : Memory} {a : Nat} {v : Byte} {c : Host.Cell} (h : c ∈ m.store a v) :
    c = (a, v) ∨ c ∈ m := by
  induction m with
  | nil => simpa [Memory.store] using h
  | cons d rest ih =>
    simp only [Memory.store] at h
    split at h
    · simpa using h
    · split at h
      · rcases List.mem_cons.1 h with h | h
        · exact .inl h
        · exact .inr (List.mem_cons_of_mem _ h)
      · rcases List.mem_cons.1 h with h | h
        · exact .inr (h ▸ List.mem_cons_self)
        · rcases ih h with h | h
          · exact .inl h
          · exact .inr (List.mem_cons_of_mem _ h)

theorem wf_nil : Memory.wf [] := by simp [Memory.wf]

/-- A store to an address of the space keeps the canonical form. -/
theorem store_wf {m : Memory} (hm : m.wf) {a : Nat} (ha : a < 9) (v : Byte) : (m.store a v).wf := by
  refine ⟨?_, fun c hc => ?_⟩
  · obtain ⟨hp, -⟩ := hm
    induction m with
    | nil => simp [Memory.store]
    | cons d rest ih =>
      obtain ⟨hd, hr⟩ := List.pairwise_cons.1 hp
      simp only [Memory.store]
      split
      · rename_i h
        refine List.pairwise_cons.2 ⟨fun c hc => ?_, hp⟩
        rcases List.mem_cons.1 hc with rfl | hc
        · exact h
        · exact Nat.lt_trans h (hd c hc)
      · rename_i h1
        split
        · rename_i h
          exact List.pairwise_cons.2 ⟨fun c hc => h ▸ hd c hc, hr⟩
        · rename_i h2
          refine List.pairwise_cons.2 ⟨fun c hc => ?_, ih hr⟩
          rcases mem_store hc with rfl | hc
          · show d.1 < a
            omega
          · exact hd c hc
  · rcases mem_store hc with rfl | hc
    · exact ha
    · exact hm.2 c hc

/-- A store leaves no cell without a value that had one. -/
theorem store_complete {m : Memory} (hm : m.complete) (a : Nat) (v : Byte) : (m.store a v).complete := by
  intro g
  rw [load_store]
  split
  · rfl
  · exact hm g

/-- In canonical form, memories that read alike are equal data. -/
theorem load_eq_none_of_lt {m : Memory} {a : Nat} (h : ∀ c ∈ m, a < c.1) : m.load a = none := by
  induction m with
  | nil => rfl
  | cons c rest ih =>
    have hc := h c List.mem_cons_self
    simp only [Memory.load]
    rw [if_neg (by omega)]
    exact ih fun d hd => h d (List.mem_cons_of_mem _ hd)

theorem memory_ext {m n : Memory} (hm : m.Pairwise fun c d => c.1 < d.1)
    (hn : n.Pairwise fun c d => c.1 < d.1) (h : ∀ a, m.load a = n.load a) : m = n := by
  induction m generalizing n with
  | nil =>
    cases n with
    | nil => rfl
    | cons d rest => have := h d.1; simp [Memory.load] at this
  | cons c rest ih =>
    cases n with
    | nil => have := h c.1; simp [Memory.load] at this
    | cons d rest' =>
      obtain ⟨hc, hr⟩ := List.pairwise_cons.1 hm
      obtain ⟨hd, hr'⟩ := List.pairwise_cons.1 hn
      have key : c.1 = d.1 := by
        rcases Nat.lt_trichotomy c.1 d.1 with hlt | heq | hgt
        · have h1 := h c.1
          rw [load_eq_none_of_lt (m := d :: rest')] at h1
          · simp [Memory.load] at h1
          · intro e he
            rcases List.mem_cons.1 he with rfl | he
            · exact hlt
            · exact Nat.lt_trans hlt (hd e he)
        · exact heq
        · have h1 := h d.1
          rw [load_eq_none_of_lt (m := c :: rest)] at h1
          · simp [Memory.load] at h1
          · intro e he
            rcases List.mem_cons.1 he with rfl | he
            · exact hgt
            · exact Nat.lt_trans hgt (hc e he)
      have val : c.2 = d.2 := by
        have h1 := h c.1
        simpa [Memory.load, key] using h1
      have tail : rest = rest' := by
        refine ih hr hr' fun a => ?_
        by_cases ha : a = c.1
        · subst ha
          rw [load_eq_none_of_lt hc, load_eq_none_of_lt (key ▸ hd)]
        · have h1 := h a
          simpa [Memory.load, Ne.symm ha, key ▸ Ne.symm ha] using h1
      rw [tail, Prod.ext key val]

end Sys2Proof.Machine
end

