-- ==== Sys2Proof/Laws/State.lean ====
section
/-! SUPPORT. One lemma for each field of `State` under each named update of it, so that no proof unfolds
an update. -/

namespace Sys2Proof.Machine

variable (s : State)

/-! ## setCell -/

@[simp] theorem setCell_life (g : GridIndex) (v : Byte) : (s.setCell g v).life = s.life := rfl
@[simp] theorem setCell_buf (g : GridIndex) (v : Byte) : (s.setCell g v).buf = s.buf.store g.val v := rfl
@[simp] theorem setCell_latch (g : GridIndex) (v : Byte) : (s.setCell g v).latch = s.latch := rfl
@[simp] theorem setCell_txOwned (g : GridIndex) (v : Byte) : (s.setCell g v).txOwned = s.txOwned := rfl
@[simp] theorem setCell_scan (g : GridIndex) (v : Byte) : (s.setCell g v).scan = s.scan := rfl
@[simp] theorem setCell_phase (g : GridIndex) (v : Byte) : (s.setCell g v).phase = s.phase := rfl
@[simp] theorem setCell_cur (g : GridIndex) (v : Byte) : (s.setCell g v).cur = s.cur := rfl
@[simp] theorem setCell_trace (g : GridIndex) (v : Byte) : (s.setCell g v).trace = s.trace := rfl
@[simp] theorem setCell_chipOut (g : GridIndex) (v : Byte) : (s.setCell g v).chipOut = s.chipOut := rfl
@[simp] theorem setCell_response (g : GridIndex) (v : Byte) : (s.setCell g v).response = s.response := rfl
@[simp] theorem setCell_portOut (g : GridIndex) (v : Byte) : (s.setCell g v).portOut = s.portOut := rfl
@[simp] theorem setCell_params (g : GridIndex) (v : Byte) : (s.setCell g v).params = s.params := rfl
@[simp] theorem setCell_host (g : GridIndex) (v : Byte) : (s.setCell g v).host = s.host := rfl
@[simp] theorem setCell_mutator (g : GridIndex) (v : Byte) : (s.setCell g v).mutator = s.mutator := rfl
@[simp] theorem setCell_draws (g : GridIndex) (v : Byte) : (s.setCell g v).draws = s.draws := rfl

/-! ## sinkWrite -/

@[simp] theorem sinkWrite_life (f : Frame) : (s.sinkWrite f).life = s.life := rfl
@[simp] theorem sinkWrite_buf (f : Frame) : (s.sinkWrite f).buf = s.buf := rfl
@[simp] theorem sinkWrite_latch (f : Frame) : (s.sinkWrite f).latch = s.latch := rfl
@[simp] theorem sinkWrite_txOwned (f : Frame) : (s.sinkWrite f).txOwned = s.txOwned := rfl
@[simp] theorem sinkWrite_scan (f : Frame) : (s.sinkWrite f).scan = s.scan := rfl
@[simp] theorem sinkWrite_phase (f : Frame) : (s.sinkWrite f).phase = s.phase := rfl
@[simp] theorem sinkWrite_cur (f : Frame) : (s.sinkWrite f).cur = s.cur := rfl
@[simp] theorem sinkWrite_trace (f : Frame) : (s.sinkWrite f).trace = s.trace ++ [.sink f.b0, .sink f.b1, .sink f.b2] := rfl
@[simp] theorem sinkWrite_chipOut (f : Frame) : (s.sinkWrite f).chipOut = s.chipOut := rfl
@[simp] theorem sinkWrite_response (f : Frame) : (s.sinkWrite f).response = s.response := rfl
@[simp] theorem sinkWrite_portOut (f : Frame) : (s.sinkWrite f).portOut = s.portOut := rfl
@[simp] theorem sinkWrite_params (f : Frame) : (s.sinkWrite f).params = s.params := rfl
@[simp] theorem sinkWrite_host (f : Frame) : (s.sinkWrite f).host = s.host := rfl
@[simp] theorem sinkWrite_mutator (f : Frame) : (s.sinkWrite f).mutator = s.mutator := rfl
@[simp] theorem sinkWrite_draws (f : Frame) : (s.sinkWrite f).draws = s.draws := rfl

/-! ## setPhase -/

@[simp] theorem setPhase_life (ph : Phase) : (s.setPhase ph).life = s.life := rfl
@[simp] theorem setPhase_buf (ph : Phase) : (s.setPhase ph).buf = s.buf := rfl
@[simp] theorem setPhase_latch (ph : Phase) : (s.setPhase ph).latch = s.latch := rfl
@[simp] theorem setPhase_txOwned (ph : Phase) : (s.setPhase ph).txOwned = s.txOwned := rfl
@[simp] theorem setPhase_scan (ph : Phase) : (s.setPhase ph).scan = s.scan := rfl
@[simp] theorem setPhase_phase (ph : Phase) : (s.setPhase ph).phase = s.scan.map fun _ => ph := rfl
@[simp] theorem setPhase_cur (ph : Phase) : (s.setPhase ph).cur = s.cur := rfl
@[simp] theorem setPhase_trace (ph : Phase) : (s.setPhase ph).trace = s.trace := rfl
@[simp] theorem setPhase_chipOut (ph : Phase) : (s.setPhase ph).chipOut = s.chipOut := rfl
@[simp] theorem setPhase_response (ph : Phase) : (s.setPhase ph).response = s.response := rfl
@[simp] theorem setPhase_portOut (ph : Phase) : (s.setPhase ph).portOut = s.portOut := rfl
@[simp] theorem setPhase_params (ph : Phase) : (s.setPhase ph).params = s.params := rfl
@[simp] theorem setPhase_host (ph : Phase) : (s.setPhase ph).host = s.host := rfl
@[simp] theorem setPhase_mutator (ph : Phase) : (s.setPhase ph).mutator = s.mutator := rfl
@[simp] theorem setPhase_draws (ph : Phase) : (s.setPhase ph).draws = s.draws := rfl

/-! ## raiseLatch -/

@[simp] theorem raiseLatch_life : (s.raiseLatch).life = s.life := rfl
@[simp] theorem raiseLatch_buf : (s.raiseLatch).buf = s.buf := rfl
@[simp] theorem raiseLatch_latch : (s.raiseLatch).latch = .high := rfl
@[simp] theorem raiseLatch_txOwned : (s.raiseLatch).txOwned = s.txOwned := rfl
@[simp] theorem raiseLatch_scan : (s.raiseLatch).scan = s.scan := rfl
@[simp] theorem raiseLatch_phase : (s.raiseLatch).phase = s.scan.map fun _ => .latchHi := rfl
@[simp] theorem raiseLatch_cur : (s.raiseLatch).cur = s.cur := rfl
@[simp] theorem raiseLatch_trace : (s.raiseLatch).trace = s.trace ++ [.latch .high, .wait latchHoldUs] := rfl
@[simp] theorem raiseLatch_chipOut : (s.raiseLatch).chipOut = s.chipOut := rfl
@[simp] theorem raiseLatch_response : (s.raiseLatch).response = s.response := rfl
@[simp] theorem raiseLatch_portOut : (s.raiseLatch).portOut = s.portOut := rfl
@[simp] theorem raiseLatch_params : (s.raiseLatch).params = s.params := rfl
@[simp] theorem raiseLatch_host : (s.raiseLatch).host = s.host := rfl
@[simp] theorem raiseLatch_mutator : (s.raiseLatch).mutator = s.mutator := rfl
@[simp] theorem raiseLatch_draws : (s.raiseLatch).draws = s.draws := rfl

/-! ## fallLatch -/

@[simp] theorem fallLatch_life (w : ControlWord) : (s.fallLatch w).life = s.life := rfl
@[simp] theorem fallLatch_buf (w : ControlWord) : (s.fallLatch w).buf = s.buf := rfl
@[simp] theorem fallLatch_latch (w : ControlWord) : (s.fallLatch w).latch = .low := rfl
@[simp] theorem fallLatch_txOwned (w : ControlWord) : (s.fallLatch w).txOwned = s.txOwned := rfl
@[simp] theorem fallLatch_scan (w : ControlWord) : (s.fallLatch w).scan = s.scan := rfl
@[simp] theorem fallLatch_phase (w : ControlWord) : (s.fallLatch w).phase = s.scan.map fun _ => .latchLo := rfl
@[simp] theorem fallLatch_cur (w : ControlWord) : (s.fallLatch w).cur = s.cur := rfl
@[simp] theorem fallLatch_trace (w : ControlWord) : (s.fallLatch w).trace = s.trace ++ [.latch .low] := rfl
@[simp] theorem fallLatch_chipOut (w : ControlWord) : (s.fallLatch w).chipOut = w := rfl
@[simp] theorem fallLatch_response (w : ControlWord) : (s.fallLatch w).response = s.response := rfl
@[simp] theorem fallLatch_portOut (w : ControlWord) : (s.fallLatch w).portOut = s.portOut := rfl
@[simp] theorem fallLatch_params (w : ControlWord) : (s.fallLatch w).params = s.params := rfl
@[simp] theorem fallLatch_host (w : ControlWord) : (s.fallLatch w).host = s.host := rfl
@[simp] theorem fallLatch_mutator (w : ControlWord) : (s.fallLatch w).mutator = s.mutator := rfl
@[simp] theorem fallLatch_draws (w : ControlWord) : (s.fallLatch w).draws = s.draws := rfl

/-! ## pulse -/

@[simp] theorem pulse_life (f : Frame) : (s.pulse f).life = s.life := rfl
@[simp] theorem pulse_buf (f : Frame) : (s.pulse f).buf = s.buf := rfl
@[simp] theorem pulse_latch (f : Frame) : (s.pulse f).latch = .low := rfl
@[simp] theorem pulse_txOwned (f : Frame) : (s.pulse f).txOwned = s.txOwned := rfl
@[simp] theorem pulse_scan (f : Frame) : (s.pulse f).scan = s.scan := rfl
@[simp] theorem pulse_phase (f : Frame) : (s.pulse f).phase = s.scan.map fun _ => .latchLo := rfl
@[simp] theorem pulse_cur (f : Frame) : (s.pulse f).cur = s.cur := rfl
@[simp] theorem pulse_chipOut (f : Frame) : (s.pulse f).chipOut = unframe s.params.framePad f := rfl
@[simp] theorem pulse_response (f : Frame) : (s.pulse f).response = s.response := rfl
@[simp] theorem pulse_portOut (f : Frame) : (s.pulse f).portOut = s.portOut := rfl
@[simp] theorem pulse_params (f : Frame) : (s.pulse f).params = s.params := rfl
@[simp] theorem pulse_host (f : Frame) : (s.pulse f).host = s.host := rfl
@[simp] theorem pulse_mutator (f : Frame) : (s.pulse f).mutator = s.mutator := rfl
@[simp] theorem pulse_draws (f : Frame) : (s.pulse f).draws = s.draws := rfl

@[simp] theorem pulse_trace (f : Frame) :
    (s.pulse f).trace =
      s.trace ++ [.sink f.b0, .sink f.b1, .sink f.b2, .latch .high, .wait latchHoldUs, .latch .low] := by
  simp [State.pulse]

/-- A frame and its pulse as one update. -/
theorem pulse_eq (f : Frame) :
    s.pulse f =
      { s with
        phase := s.scan.map fun _ => .latchLo
        latch := .low
        chipOut := unframe s.params.framePad f
        trace := s.trace ++
          [.sink f.b0, .sink f.b1, .sink f.b2, .latch .high, .wait latchHoldUs, .latch .low] } := by
  simp [State.pulse, State.sinkWrite, State.raiseLatch, State.fallLatch]

/-! ## startTurn -/

@[simp] theorem startTurn_life (g : GridIndex) : (s.startTurn g).life = s.life := rfl
@[simp] theorem startTurn_buf (g : GridIndex) : (s.startTurn g).buf = s.buf := rfl
@[simp] theorem startTurn_latch (g : GridIndex) : (s.startTurn g).latch = s.latch := rfl
@[simp] theorem startTurn_txOwned (g : GridIndex) : (s.startTurn g).txOwned = s.txOwned := rfl
@[simp] theorem startTurn_scan (g : GridIndex) : (s.startTurn g).scan = some g := rfl
@[simp] theorem startTurn_phase (g : GridIndex) : (s.startTurn g).phase = some .sample := rfl
@[simp] theorem startTurn_cur (g : GridIndex) : (s.startTurn g).cur = s.cur := rfl
@[simp] theorem startTurn_trace (g : GridIndex) : (s.startTurn g).trace = s.trace := rfl
@[simp] theorem startTurn_chipOut (g : GridIndex) : (s.startTurn g).chipOut = s.chipOut := rfl
@[simp] theorem startTurn_response (g : GridIndex) : (s.startTurn g).response = s.response := rfl
@[simp] theorem startTurn_portOut (g : GridIndex) : (s.startTurn g).portOut = s.portOut := rfl
@[simp] theorem startTurn_params (g : GridIndex) : (s.startTurn g).params = s.params := rfl
@[simp] theorem startTurn_host (g : GridIndex) : (s.startTurn g).host = s.host := rfl
@[simp] theorem startTurn_mutator (g : GridIndex) : (s.startTurn g).mutator = s.mutator := rfl
@[simp] theorem startTurn_draws (g : GridIndex) : (s.startTurn g).draws = s.draws := rfl

/-! ## settle -/

@[simp] theorem settle_life (us : U32) : (s.settle us).life = s.life := rfl
@[simp] theorem settle_buf (us : U32) : (s.settle us).buf = s.buf := rfl
@[simp] theorem settle_latch (us : U32) : (s.settle us).latch = s.latch := rfl
@[simp] theorem settle_txOwned (us : U32) : (s.settle us).txOwned = s.txOwned := rfl
@[simp] theorem settle_scan (us : U32) : (s.settle us).scan = s.scan := rfl
@[simp] theorem settle_phase (us : U32) : (s.settle us).phase = s.scan.map fun _ => .settle := rfl
@[simp] theorem settle_cur (us : U32) : (s.settle us).cur = s.cur := rfl
@[simp] theorem settle_trace (us : U32) : (s.settle us).trace = s.trace ++ [.wait us.toNat] := rfl
@[simp] theorem settle_chipOut (us : U32) : (s.settle us).chipOut = s.chipOut := rfl
@[simp] theorem settle_response (us : U32) : (s.settle us).response = s.response := rfl
@[simp] theorem settle_portOut (us : U32) : (s.settle us).portOut = s.portOut := rfl
@[simp] theorem settle_params (us : U32) : (s.settle us).params = s.params := rfl
@[simp] theorem settle_host (us : U32) : (s.settle us).host = s.host := rfl
@[simp] theorem settle_mutator (us : U32) : (s.settle us).mutator = s.mutator := rfl
@[simp] theorem settle_draws (us : U32) : (s.settle us).draws = s.draws := rfl

/-! ## answer -/

@[simp] theorem answer_life (st : Status) (rd : Option Byte) : (s.answer st rd).life = s.life := rfl
@[simp] theorem answer_buf (st : Status) (rd : Option Byte) : (s.answer st rd).buf = s.buf := rfl
@[simp] theorem answer_latch (st : Status) (rd : Option Byte) : (s.answer st rd).latch = s.latch := rfl
@[simp] theorem answer_txOwned (st : Status) (rd : Option Byte) : (s.answer st rd).txOwned = s.txOwned := rfl
@[simp] theorem answer_scan (st : Status) (rd : Option Byte) : (s.answer st rd).scan = none := rfl
@[simp] theorem answer_phase (st : Status) (rd : Option Byte) : (s.answer st rd).phase = none := rfl
@[simp] theorem answer_cur (st : Status) (rd : Option Byte) : (s.answer st rd).cur = none := rfl
@[simp] theorem answer_trace (st : Status) (rd : Option Byte) : (s.answer st rd).trace = s.trace := rfl
@[simp] theorem answer_chipOut (st : Status) (rd : Option Byte) : (s.answer st rd).chipOut = s.chipOut := rfl
@[simp] theorem answer_response (st : Status) (rd : Option Byte) : (s.answer st rd).response = some ⟨st, rd⟩ := rfl
@[simp] theorem answer_portOut (st : Status) (rd : Option Byte) : (s.answer st rd).portOut = s.portOut := rfl
@[simp] theorem answer_params (st : Status) (rd : Option Byte) : (s.answer st rd).params = s.params := rfl
@[simp] theorem answer_host (st : Status) (rd : Option Byte) : (s.answer st rd).host = s.host := rfl
@[simp] theorem answer_mutator (st : Status) (rd : Option Byte) : (s.answer st rd).mutator = s.mutator := rfl
@[simp] theorem answer_draws (st : Status) (rd : Option Byte) : (s.answer st rd).draws = s.draws := rfl

/-! ## present -/

@[simp] theorem present_life (out : PortOutput) : (s.present out).life = s.life := rfl
@[simp] theorem present_buf (out : PortOutput) : (s.present out).buf = s.buf := rfl
@[simp] theorem present_latch (out : PortOutput) : (s.present out).latch = s.latch := rfl
@[simp] theorem present_txOwned (out : PortOutput) : (s.present out).txOwned = s.txOwned := rfl
@[simp] theorem present_scan (out : PortOutput) : (s.present out).scan = s.scan := rfl
@[simp] theorem present_phase (out : PortOutput) : (s.present out).phase = s.phase := rfl
@[simp] theorem present_cur (out : PortOutput) : (s.present out).cur = s.cur := rfl
@[simp] theorem present_trace (out : PortOutput) : (s.present out).trace = s.trace := rfl
@[simp] theorem present_chipOut (out : PortOutput) : (s.present out).chipOut = s.chipOut := rfl
@[simp] theorem present_response (out : PortOutput) : (s.present out).response = s.response := rfl
@[simp] theorem present_portOut (out : PortOutput) : (s.present out).portOut = out := rfl
@[simp] theorem present_params (out : PortOutput) : (s.present out).params = s.params := rfl
@[simp] theorem present_host (out : PortOutput) : (s.present out).host = s.host := rfl
@[simp] theorem present_mutator (out : PortOutput) : (s.present out).mutator = s.mutator := rfl
@[simp] theorem present_draws (out : PortOutput) : (s.present out).draws = s.draws := rfl

/-! ## takeTransport -/

@[simp] theorem takeTransport_life : (s.takeTransport).life = s.life := rfl
@[simp] theorem takeTransport_buf : (s.takeTransport).buf = s.buf := rfl
@[simp] theorem takeTransport_latch : (s.takeTransport).latch = .low := rfl
@[simp] theorem takeTransport_txOwned : (s.takeTransport).txOwned = true := rfl
@[simp] theorem takeTransport_scan : (s.takeTransport).scan = s.scan := rfl
@[simp] theorem takeTransport_phase : (s.takeTransport).phase = s.phase := rfl
@[simp] theorem takeTransport_cur : (s.takeTransport).cur = s.cur := rfl
@[simp] theorem takeTransport_trace : (s.takeTransport).trace = s.trace ++ [.latch .low] := rfl
@[simp] theorem takeTransport_chipOut : (s.takeTransport).chipOut = Config.unknownChipOut s.draws := rfl
@[simp] theorem takeTransport_response : (s.takeTransport).response = s.response := rfl
@[simp] theorem takeTransport_portOut : (s.takeTransport).portOut = s.portOut := rfl
@[simp] theorem takeTransport_params : (s.takeTransport).params = s.params := rfl
@[simp] theorem takeTransport_host : (s.takeTransport).host = s.host := rfl
@[simp] theorem takeTransport_mutator : (s.takeTransport).mutator = s.mutator := rfl
@[simp] theorem takeTransport_draws : (s.takeTransport).draws = s.draws + 1 := rfl

/-! ## releaseTransport -/

@[simp] theorem releaseTransport_life : (s.releaseTransport).life = .deinit := rfl
@[simp] theorem releaseTransport_buf : (s.releaseTransport).buf = [] := rfl
@[simp] theorem releaseTransport_latch : (s.releaseTransport).latch = .undriven := rfl
@[simp] theorem releaseTransport_txOwned : (s.releaseTransport).txOwned = false := rfl
@[simp] theorem releaseTransport_scan : (s.releaseTransport).scan = s.scan := rfl
@[simp] theorem releaseTransport_phase : (s.releaseTransport).phase = s.phase := rfl
@[simp] theorem releaseTransport_cur : (s.releaseTransport).cur = s.cur := rfl
@[simp] theorem releaseTransport_trace : (s.releaseTransport).trace = s.trace ++ [.release] := rfl
@[simp] theorem releaseTransport_chipOut : (s.releaseTransport).chipOut = s.chipOut := rfl
@[simp] theorem releaseTransport_response : (s.releaseTransport).response = s.response := rfl
@[simp] theorem releaseTransport_portOut : (s.releaseTransport).portOut = s.portOut := rfl
@[simp] theorem releaseTransport_params : (s.releaseTransport).params = s.params := rfl
@[simp] theorem releaseTransport_host : (s.releaseTransport).host = s.host := rfl
@[simp] theorem releaseTransport_mutator : (s.releaseTransport).mutator = s.mutator := rfl
@[simp] theorem releaseTransport_draws : (s.releaseTransport).draws = s.draws := rfl

end Sys2Proof.Machine
end

