-- ==== Sys2Proof/Laws/Ops.lean ====
section
/-! SUPPORT. One lemma for each shared operation: what it gives when the concurrent mutator stores
nothing, and, whatever the mutator does, everything that can hold of the state it answers. Proofs cite
these and do not unfold the operations. -/

namespace Sys2Proof.Machine

/-! ## Sequencing -/

@[simp] theorem andThen_next {α β : Type} (a : α) (k : α → Res β) : andThen (.next a) k = k a := rfl

@[simp] theorem andThen_fault {α β : Type} (r : Fault) (k : α → Res β) :
    andThen (.fault r) k = .fault r := rfl

@[simp] theorem andThen_refused {α β : Type} (r : Refusal) (k : α → Res β) :
    andThen (.refused r) k = .refused r := rfl

theorem andThen_eq_next {α β : Type} {o : Res α} {k : α → Res β} {b : β} :
    andThen o k = .next b ↔ ∃ a, o = .next a ∧ k a = .next b := by
  cases o <;> simp [andThen]

theorem andThen_eq_fault {α β : Type} {o : Res α} {k : α → Res β} {r : Fault} :
    andThen o k = .fault r ↔ o = .fault r ∨ ∃ a, o = .next a ∧ k a = .fault r := by
  cases o <;> simp [andThen]

theorem andThen_eq_refused {α β : Type} {o : Res α} {k : α → Res β} {r : Refusal} :
    andThen o k = .refused r ↔ o = .refused r ∨ ∃ a, o = .next a ∧ k a = .refused r := by
  cases o <;> simp [andThen]

theorem andThen_assoc {α β γ : Type} (o : Res α) (k : α → Res β) (l : β → Res γ) :
    andThen (andThen o k) l = andThen o fun a => andThen (k a) l := by
  cases o <;> rfl

/-! ## The mutator's stores as a change of memory -/

@[simp] theorem afterStores_nil (m : Memory) : m.afterStores [] = m := rfl

@[simp] theorem afterStores_cons (m : Memory) (w : ConcurrentStore) (ws : List ConcurrentStore) :
    m.afterStores (w :: ws) = Memory.afterStores (m.store w.grid.val w.value) ws := rfl

theorem afterStores_append (m : Memory) (ws vs : List ConcurrentStore) :
    m.afterStores (ws ++ vs) = (m.afterStores ws).afterStores vs :=
  List.foldl_append

theorem afterStores_wf {m : Memory} (hm : m.wf) (ws : List ConcurrentStore) : (m.afterStores ws).wf := by
  induction ws generalizing m with
  | nil => exact hm
  | cons w ws ih => exact ih (store_wf hm w.grid.isLt w.value)

theorem afterStores_complete {m : Memory} (hm : m.complete) (ws : List ConcurrentStore) :
    (m.afterStores ws).complete := by
  induction ws generalizing m with
  | nil => exact hm
  | cons w ws ih => exact ih (store_complete hm w.grid.val w.value)

/-- The memory of the state after one interleaving point. -/
def State.afterTurn (s : State) : State :=
  { s with buf := s.buf.afterStores (s.mutator.headD []), mutator := s.mutator.tail }

/-- Whether a store at an interleaving point is permitted. -/
def State.storesAllowed (s : State) (gate : Gate) : Prop :=
  gate = .admits ∧ (∃ cfg, s.life = .init cfg) ∧ s.params.concurrentMutator = true

theorem concurrentStore_allowed {gate : Gate} {s : State} (h : s.storesAllowed gate) (w : ConcurrentStore) :
    concurrentStore gate w s = .next (s.setCell w.grid w.value) := by
  obtain ⟨rfl, ⟨cfg, hl⟩, hc⟩ := h
  simp [concurrentStore, hl, hc]

theorem concurrentStore_barred {gate : Gate} {s : State} (h : ¬ s.storesAllowed gate) (w : ConcurrentStore) :
    concurrentStore gate w s = .refused .concurrentStoreBarred := by
  unfold concurrentStore
  split
  · rename_i cfg hl
    rw [if_neg]
    exact fun hc => h ⟨rfl, ⟨cfg, hl⟩, hc⟩
  · rfl

theorem storesAllowed_setCell {gate : Gate} {s : State} (h : s.storesAllowed gate) (g : GridIndex) (v : Byte) :
    (s.setCell g v).storesAllowed gate := h

theorem concurrentStores_allowed {gate : Gate} (ws : List ConcurrentStore) {s : State}
    (h : s.storesAllowed gate) :
    concurrentStores gate ws s = .next { s with buf := s.buf.afterStores ws } := by
  induction ws generalizing s with
  | nil => rfl
  | cons w ws ih =>
    simp only [concurrentStores, concurrentStore_allowed h, andThen_next]
    exact ih (storesAllowed_setCell h w.grid w.value)

theorem concurrentStores_barred {gate : Gate} {w : ConcurrentStore} (ws : List ConcurrentStore) {s : State}
    (h : ¬ s.storesAllowed gate) :
    concurrentStores gate (w :: ws) s = .refused .concurrentStoreBarred := by
  simp [concurrentStores, concurrentStore_barred h]

/-! ## An interleaving point -/

theorem mutatorTurn_quiet (gate : Gate) {s : State} (h : s.mutator = []) : mutatorTurn gate s = .next s := by
  simp [mutatorTurn, h]

theorem afterTurn_quiet {s : State} (h : s.mutator = []) : s.afterTurn = s := by
  cases s
  simp_all [State.afterTurn]

theorem mutatorTurn_allowed {gate : Gate} {s : State} (h : s.storesAllowed gate) :
    mutatorTurn gate s = .next s.afterTurn := by
  unfold mutatorTurn
  split
  · rename_i hm
    rw [afterTurn_quiet hm]
  · rename_i ws later hm
    have h' : State.storesAllowed { s with mutator := later } gate := h
    simp [concurrentStores_allowed ws h', State.afterTurn, hm]

/-- All an interleaving point can do: the mutator's stores of that point, or their refusal. -/
theorem mutatorTurn_cases (gate : Gate) (s : State) :
    mutatorTurn gate s = .next s.afterTurn ∨ mutatorTurn gate s = .refused .concurrentStoreBarred := by
  by_cases h : s.storesAllowed gate
  · exact .inl (mutatorTurn_allowed h)
  · unfold mutatorTurn
    split
    · rename_i hm
      exact .inl (by rw [afterTurn_quiet hm])
    · rename_i ws later hm
      have h' : ¬ State.storesAllowed { s with mutator := later } gate := h
      cases ws with
      | nil => exact .inl (by simp [concurrentStores, State.afterTurn, hm])
      | cons w ws => exact .inr (concurrentStores_barred ws h')

theorem mutatorTurn_next {gate : Gate} {s t : State} (h : mutatorTurn gate s = .next t) : t = s.afterTurn := by
  rcases mutatorTurn_cases gate s with h' | h' <;> rw [h'] at h
  · exact (Host.Outcome.next.inj h).symm
  · cases h

theorem mutatorTurn_barred {gate : Gate} {s : State} {w : ConcurrentStore} {ws : List ConcurrentStore}
    {later : List (List ConcurrentStore)} (hm : s.mutator = (w :: ws) :: later)
    (h : ¬ s.storesAllowed gate) : mutatorTurn gate s = .refused .concurrentStoreBarred := by
  have h' : ¬ State.storesAllowed { s with mutator := later } gate := h
  simp [mutatorTurn, hm, concurrentStores_barred ws h']

/-! ## Cells -/

theorem cellStore_quiet (gate : Gate) (g : GridIndex) (v : Byte) {s : State} (h : s.mutator = []) :
    cellStore gate g v s = .next (s.setCell g v) := by
  simp [cellStore, mutatorTurn_quiet gate h]

theorem cellLoad_quiet (gate : Gate) (g : GridIndex) {s : State} (h : s.mutator = []) {v : Byte}
    (hv : s.buf.load g.val = some v) : cellLoad gate g s = .next (v, s) := by
  simp [cellLoad, mutatorTurn_quiet gate h, hv]

theorem cellStore_next {gate : Gate} {g : GridIndex} {v : Byte} {s t : State}
    (h : cellStore gate g v s = .next t) : t = s.afterTurn.setCell g v := by
  obtain ⟨u, hu, ht⟩ := andThen_eq_next.1 h
  rw [← mutatorTurn_next hu]
  exact (Host.Outcome.next.inj ht).symm

theorem cellLoad_next {gate : Gate} {g : GridIndex} {s : State} {r : Byte × State}
    (h : cellLoad gate g s = .next r) :
    r.2 = s.afterTurn ∧ s.afterTurn.buf.load g.val = some r.1 := by
  obtain ⟨u, hu, ht⟩ := andThen_eq_next.1 h
  rw [← mutatorTurn_next hu]
  split at ht
  · rename_i v hv
    cases ht
    exact ⟨rfl, hv⟩
  · cases ht

/-- `t` is `s` but for the buffer and the mutator's list; the buffer keeps its form and its values. -/
structure BufOnly (s t : State) : Prop where
  eq : t = { s with buf := t.buf, mutator := t.mutator }
  wf : s.buf.wf → t.buf.wf
  complete : s.buf.complete → t.buf.complete

theorem BufOnly.refl (s : State) : BufOnly s s := ⟨rfl, id, id⟩

theorem BufOnly.trans {s t u : State} (h : BufOnly s t) (k : BufOnly t u) : BufOnly s u := by
  refine ⟨?_, fun hs => k.wf (h.wf hs), fun hs => k.complete (h.complete hs)⟩
  rw [k.eq, h.eq]

theorem afterTurn_bufOnly (s : State) : BufOnly s s.afterTurn :=
  ⟨rfl, fun h => afterStores_wf h _, fun h => afterStores_complete h _⟩

theorem setCell_bufOnly (s : State) (g : GridIndex) (v : Byte) : BufOnly s (s.setCell g v) :=
  ⟨rfl, fun h => store_wf h g.isLt v, fun h => store_complete h _ _⟩

theorem cellStore_bufOnly {gate : Gate} {g : GridIndex} {v : Byte} {s t : State}
    (h : cellStore gate g v s = .next t) : BufOnly s t :=
  cellStore_next h ▸ (afterTurn_bufOnly s).trans (setCell_bufOnly _ g v)

theorem storeEach_bufOnly {gate : Gate} {v : Byte} {gs : List GridIndex} {s t : State}
    (h : storeEach gate v gs s = .next t) : BufOnly s t := by
  induction gs generalizing s with
  | nil =>
    cases h
    exact .refl _
  | cons g gs ih =>
    obtain ⟨u, hu, ht⟩ := andThen_eq_next.1 h
    exact (cellStore_bufOnly hu).trans (ih ht)

/-- A store to each of the grids takes one entry of the mutator's list for each. -/
theorem storeEach_mutator {gate : Gate} {v : Byte} {gs : List GridIndex} {s t : State}
    (h : storeEach gate v gs s = .next t) : t.mutator = s.mutator.drop gs.length := by
  induction gs generalizing s with
  | nil =>
    cases h
    rfl
  | cons g gs ih =>
    obtain ⟨u, hu, ht⟩ := andThen_eq_next.1 h
    rw [ih ht, cellStore_next hu]
    simp [State.afterTurn, List.drop_tail]

/-- A store to each of the grids where concurrent stores are permitted: the stores of each point fall
before the store of its grid. -/
theorem storeEach_allowed {gate : Gate} (v : Byte) (g : GridIndex) (gs : List GridIndex) {s : State}
    (h : s.storesAllowed gate) :
    storeEach gate v (g :: gs) s = storeEach gate v gs (s.afterTurn.setCell g v) := by
  simp [storeEach, cellStore, mutatorTurn_allowed h]

/-- The buffer after the same byte is stored to each of the grids. -/
def Memory.storeAll (m : Memory) (v : Byte) (gs : List GridIndex) : Memory :=
  gs.foldl (fun m g => m.store g.val v) m

theorem storeEach_quiet (gate : Gate) (v : Byte) (gs : List GridIndex) {s : State} (h : s.mutator = []) :
    storeEach gate v gs s = .next { s with buf := s.buf.storeAll v gs } := by
  induction gs generalizing s with
  | nil => rfl
  | cons g gs ih =>
    simp only [storeEach, cellStore_quiet gate g v h, andThen_next]
    rw [ih (by simpa using h)]
    rfl

theorem load_storeAll (m : Memory) (v : Byte) (gs : List GridIndex) (a : Nat) :
    (m.storeAll v gs).load a = if ∃ g ∈ gs, g.val = a then some v else m.load a := by
  induction gs generalizing m with
  | nil => simp [Memory.storeAll]
  | cons g gs ih =>
    show ((m.store g.val v).storeAll v gs).load a = _
    rw [ih]
    by_cases h1 : ∃ x ∈ gs, x.val = a
    · rw [if_pos h1, if_pos (by obtain ⟨x, hx, hxa⟩ := h1; exact ⟨x, List.mem_cons_of_mem _ hx, hxa⟩)]
    · rw [if_neg h1, load_store]
      by_cases h2 : a = g.val
      · rw [if_pos h2, if_pos ⟨g, List.mem_cons_self, h2.symm⟩]
      · rw [if_neg h2, if_neg]
        rintro ⟨x, hx, hxa⟩
        rcases List.mem_cons.1 hx with rfl | hx
        · exact h2 hxa.symm
        · exact h1 ⟨x, hx, hxa⟩

theorem mem_allGrids (g : GridIndex) : g ∈ allGrids := by
  revert g
  decide

/-- After a store to every grid, every cell of the space reads as the byte. -/
theorem load_storeAll_allGrids (m : Memory) (v : Byte) (a : Nat) :
    (m.storeAll v allGrids).load a = if a < 9 then some v else m.load a := by
  rw [load_storeAll]
  by_cases h : a < 9
  · rw [if_pos h, if_pos ⟨⟨a, h⟩, mem_allGrids _, rfl⟩]
  · rw [if_neg h, if_neg]
    rintro ⟨g, -, rfl⟩
    exact h g.isLt

/-- A store to each of the grids leaves each of them with a value, whatever the mutator does. -/
theorem storeEach_loads {gate : Gate} {v : Byte} {gs : List GridIndex} {s t : State}
    (h : storeEach gate v gs s = .next t) (g : GridIndex)
    (hg : g ∈ gs ∨ (s.buf.load g.val).isSome = true) : (t.buf.load g.val).isSome = true := by
  induction gs generalizing s with
  | nil =>
    cases h
    simpa using hg
  | cons x gs ih =>
    obtain ⟨u, hu, ht⟩ := andThen_eq_next.1 h
    have keep : (s.buf.load g.val).isSome = true → (s.afterTurn.buf.load g.val).isSome = true := by
      intro hs
      show ((s.buf.afterStores (s.mutator.headD [])).load g.val).isSome = true
      generalize s.mutator.headD [] = ws
      clear hu ht h hg ih
      generalize s.buf = m at hs ⊢
      induction ws generalizing m with
      | nil => exact hs
      | cons w ws ih' =>
        refine ih' _ ?_
        rw [load_store]
        split
        · rfl
        · exact hs
    refine ih ht ?_
    rw [cellStore_next hu]
    simp only [setCell_buf, load_store]
    rcases hg with hg | hg
    · rcases List.mem_cons.1 hg with rfl | hg
      · simp
      · exact .inl hg
    · right
      split
      · rfl
      · exact keep hg

theorem storeEach_allGrids_complete {gate : Gate} {v : Byte} {s t : State}
    (h : storeEach gate v allGrids s = .next t) : t.buf.complete :=
  fun g => storeEach_loads h g (.inl (mem_allGrids g))

/-! ## The link -/

theorem transmit_ready (f : Frame) {s : State} (ho : s.txOwned = true) (hl : s.latch = .low) :
    transmit f s = .next (s.pulse f) := by
  simp [transmit, ho, hl]

/-- All `TRANSMIT` can answer, and when. -/
theorem transmit_next {f : Frame} {s t : State} (h : transmit f s = .next t) :
    s.txOwned = true ∧ s.latch = .low ∧ t = s.pulse f := by
  unfold transmit at h
  split at h
  · rename_i hr
    exact ⟨hr.1, hr.2, (Host.Outcome.next.inj h).symm⟩
  · cases h

/-! ## The answer -/

theorem respond_quiet (gate : Gate) (st : Status) (rd : Option Byte) {s : State} (h : s.mutator = []) :
    respond gate st rd s = .next (s.answer st rd) := by
  simp [respond, mutatorTurn_quiet gate h]

theorem respond_next {gate : Gate} {st : Status} {rd : Option Byte} {s t : State}
    (h : respond gate st rd s = .next t) : t = s.afterTurn.answer st rd := by
  obtain ⟨u, hu, ht⟩ := andThen_eq_next.1 h
  rw [← mutatorTurn_next hu]
  exact (Host.Outcome.next.inj ht).symm

theorem whenInit_init (gate : Gate) (k : DriverConfig → State → Res State) {s : State} {cfg : DriverConfig}
    (h : s.life = .init cfg) : whenInit gate k s = k cfg s := by
  simp [whenInit, h]

theorem whenInit_not (gate : Gate) (k : DriverConfig → State → Res State) {s : State}
    (h : ∀ cfg, s.life ≠ .init cfg) : whenInit gate k s = respond gate .notInitialized none s := by
  unfold whenInit
  split
  · exact absurd ‹_› (h _)
  · rfl
  · rfl

theorem whenGrid_in (gate : Gate) {g : BitVec 4} (k : GridIndex → State → Res State) (s : State)
    (h : g.toNat < 9) : whenGrid gate g k s = k ⟨g.toNat, h⟩ s := by
  simp [whenGrid, gridOfField, h]

theorem whenGrid_out (gate : Gate) {g : BitVec 4} (k : GridIndex → State → Res State) (s : State)
    (h : 9 ≤ g.toNat) : whenGrid gate g k s = respond gate .invalidGrid none s := by
  simp [whenGrid, gridOfField, Nat.not_lt.2 h]

end Sys2Proof.Machine
end

