-- ==== Sys2Proof/Laws/PerInstr.lean ====
section
/-! SUPPORT. The round trip of encoder and decoder, one lemma for each constructor of `Instr`, over small
lemmas on the fields of words. -/

namespace Sys2Proof.Laws

/-! ## Fields -/

@[simp] theorem opField_requestWord (op g : BitVec 4) (d : Byte) : opField (requestWord op g d) = op := by
  apply BitVec.eq_of_getLsbD_eq
  intro i hi
  interval_cases i <;> simp [opField, requestWord]

@[simp] theorem gridField_requestWord (op g : BitVec 4) (d : Byte) :
    gridField (requestWord op g d) = g := by
  apply BitVec.eq_of_getLsbD_eq
  intro i hi
  interval_cases i <;> simp [gridField, requestWord]

@[simp] theorem dataField_requestWord (op g : BitVec 4) (d : Byte) :
    dataField (requestWord op g d) = d := by
  apply BitVec.eq_of_getLsbD_eq
  intro i hi
  interval_cases i <;> simp [dataField, requestWord]

theorem low_reservedOpAB (low : BitVec 13) : (0xA000#16 ||| low.setWidth 16).extractLsb' 0 13 = low := by
  apply BitVec.eq_of_getLsbD_eq
  intro i hi
  interval_cases i <;> simp

theorem low_reservedOpCF (low : BitVec 14) : (0xC000#16 ||| low.setWidth 16).extractLsb' 0 14 = low := by
  apply BitVec.eq_of_getLsbD_eq
  intro i hi
  interval_cases i <;> simp

/-- The `OP` of a word whose top bits are given is one of those the bits admit. -/
theorem op_reservedOpAB (low : BitVec 13) :
    (opField (0xA000#16 ||| low.setWidth 16)).toNat = 0xA ∨
      (opField (0xA000#16 ||| low.setWidth 16)).toNat = 0xB := by
  have h : opField (0xA000#16 ||| low.setWidth 16) = 0xA#4 ||| (low.extractLsb' 12 1).setWidth 4 := by
    apply BitVec.eq_of_getLsbD_eq
    intro i hi
    interval_cases i <;> simp [opField]
  rw [h]
  generalize low.extractLsb' 12 1 = b
  revert b
  decide

theorem op_reservedOpCF (low : BitVec 14) : 0xC ≤ (opField (0xC000#16 ||| low.setWidth 16)).toNat := by
  have h : opField (0xC000#16 ||| low.setWidth 16) = 0xC#4 ||| (low.extractLsb' 12 2).setWidth 4 := by
    apply BitVec.eq_of_getLsbD_eq
    intro i hi
    interval_cases i <;> simp [opField]
  rw [h]
  generalize low.extractLsb' 12 2 = b
  revert b
  decide

/-- An `OP` of 0xC to 0xF decodes to `RESERVED_OP_C_F`. -/
theorem decodeRequest_high {w : RequestWord} (h : 0xC ≤ (opField w).toNat) (text : List Byte)
    (config : DriverConfig) :
    decodeRequest w text config = .ok (.reservedOpCF (w.extractLsb' 0 14)) := by
  have hlt := (opField w).isLt
  unfold decodeRequest
  generalize (opField w).toNat = n at h hlt
  interval_cases n <;> rfl

theorem gridOfMask_gridMask (g : GridIndex) : gridOfMask (gridMask g) = some g := by
  revert g
  decide

theorem gridMask_ne_zero (g : GridIndex) : gridMask g ≠ 0#9 := by
  revert g
  decide

/-! ## Frame values -/

theorem frameValue_cmd (cmd : CommandCode) (mask : GridMask) (seg : SegmentPattern) :
    (frameValue .low (packWord cmd mask seg)).extractLsb' 21 3 = cmd := by
  apply BitVec.eq_of_getLsbD_eq
  intro i hi
  interval_cases i <;> simp [frameValue, packWord]

theorem frameValue_mask (cmd : CommandCode) (mask : GridMask) (seg : SegmentPattern) :
    (frameValue .low (packWord cmd mask seg)).extractLsb' 12 9 = mask := by
  apply BitVec.eq_of_getLsbD_eq
  intro i hi
  interval_cases i <;> simp [frameValue, packWord]

theorem frameValue_seg (cmd : CommandCode) (mask : GridMask) (seg : SegmentPattern) :
    (frameValue .low (packWord cmd mask seg)).extractLsb' 4 8 = seg := by
  apply BitVec.eq_of_getLsbD_eq
  intro i hi
  interval_cases i <;> simp [frameValue, packWord]

theorem frameValue_commandOnly (cmd : CommandCode) :
    frameValue .low (packWord cmd 0#9 0#8) &&& 0x1FFFF0#24 = 0#24 := by
  revert cmd
  decide

theorem frameValue_commandZero (mask : GridMask) (seg : SegmentPattern) :
    frameValue .low (packWord 0#3 mask seg) &&& 0xE0000F#24 = 0#24 := by
  apply BitVec.eq_of_getLsbD_eq
  intro i hi
  interval_cases i <;> simp [frameValue, packWord]

/-- The `GRID` and `SEG` bits of a frame value are the mask 0x1FFFF0's, so a nonzero mask shows. -/
theorem frameValue_display (cmd : CommandCode) {mask : GridMask} (seg : SegmentPattern) (h : mask ≠ 0#9) :
    frameValue .low (packWord cmd mask seg) &&& 0x1FFFF0#24 ≠ 0#24 := by
  intro hz
  apply h
  rw [← frameValue_mask cmd mask seg]
  have key : ∀ f : FrameValue, f.extractLsb' 12 9 = (f &&& 0x1FFFF0#24).extractLsb' 12 9 := by
    intro f
    apply BitVec.eq_of_getLsbD_eq
    intro i hi
    interval_cases i <;> simp
  rw [key, hz]
  rfl

/-! ## The family -/

/-- Decoding what presents a well-formed instruction gives it back. -/
def RoundTrip.Statement (i : Instr) : Prop := i.wf = true → decode (encode i) = .ok i

theorem RoundTrip.initializeBlock (cfg : Option DriverConfig) : RoundTrip.Statement (.initializeBlock cfg) := by
  intro _
  cases cfg <;> simp [encode, encodeRequest, decode, decodeRequest, whenZero]

theorem RoundTrip.deinitialize : RoundTrip.Statement .deinitialize := by
  intro _
  simp [encode, encodeRequest, decode, decodeRequest, whenZero]

theorem RoundTrip.writeSegments (g : BitVec 4) (p : Byte) : RoundTrip.Statement (.writeSegments g p) := by
  intro _
  simp [encode, encodeRequest, decode, decodeRequest]

theorem RoundTrip.writeDigit (g : BitVec 4) (d : Byte) : RoundTrip.Statement (.writeDigit g d) := by
  intro _
  simp [encode, encodeRequest, decode, decodeRequest]

theorem RoundTrip.writeString (text : List Byte) : RoundTrip.Statement (.writeString text) := by
  intro _
  simp [encode, decode, decodeRequest, whenZero]

theorem RoundTrip.clear : RoundTrip.Statement .clear := by
  intro _
  simp [encode, encodeRequest, decode, decodeRequest, whenZero]

theorem RoundTrip.fill (p : Byte) : RoundTrip.Statement (.fill p) := by
  intro _
  simp [encode, encodeRequest, decode, decodeRequest, whenZero]

theorem RoundTrip.readSegments (g : BitVec 4) : RoundTrip.Statement (.readSegments g) := by
  intro _
  simp [encode, encodeRequest, decode, decodeRequest, whenZero]

theorem RoundTrip.refresh : RoundTrip.Statement .refresh := by
  intro _
  simp [encode, encodeRequest, decode, decodeRequest, whenZero]

theorem RoundTrip.sendCommand (c : Byte) : RoundTrip.Statement (.sendCommand c) := by
  intro _
  simp [encode, encodeRequest, decode, decodeRequest, whenZero]

theorem RoundTrip.reservedOpAB (low : BitVec 13) : RoundTrip.Statement (.reservedOpAB low) := by
  intro _
  rcases op_reservedOpAB low with h | h <;>
    simp only [encode, encodeRequest, decode, decodeRequest, h, low_reservedOpAB]

theorem RoundTrip.reservedOpCF (low : BitVec 14) : RoundTrip.Statement (.reservedOpCF low) := by
  intro _
  simp only [encode, encodeRequest, decode, decodeRequest_high (op_reservedOpCF low), low_reservedOpCF]

theorem RoundTrip.frameDisplay (g : GridIndex) (seg : SegmentPattern) :
    RoundTrip.Statement (.frameDisplay g seg) := by
  intro _
  simp [encode, decode, decodeLink, frameValue_display 0#3 seg (gridMask_ne_zero g), frameValue_commandZero,
    frameValue_mask, frameValue_seg, gridOfMask_gridMask]

theorem RoundTrip.frameCmd (cmd : CommandCode) : RoundTrip.Statement (.frameCmd cmd) := by
  intro _
  simp only [encode, decode, decodeLink, frameValue_commandOnly, frameValue_cmd, if_true]

theorem RoundTrip.encodeDigit0 : RoundTrip.Statement .encodeDigit0 := fun _ => rfl

theorem RoundTrip.encodeDigit1 : RoundTrip.Statement .encodeDigit1 := fun _ => rfl

theorem RoundTrip.encodeDigit2 : RoundTrip.Statement .encodeDigit2 := fun _ => rfl

theorem RoundTrip.encodeDigit3 : RoundTrip.Statement .encodeDigit3 := fun _ => rfl

theorem RoundTrip.encodeDigit4 : RoundTrip.Statement .encodeDigit4 := fun _ => rfl

theorem RoundTrip.encodeDigit5 : RoundTrip.Statement .encodeDigit5 := fun _ => rfl

theorem RoundTrip.encodeDigit6 : RoundTrip.Statement .encodeDigit6 := fun _ => rfl

theorem RoundTrip.encodeDigit7 : RoundTrip.Statement .encodeDigit7 := fun _ => rfl

theorem RoundTrip.encodeDigit8 : RoundTrip.Statement .encodeDigit8 := fun _ => rfl

theorem RoundTrip.encodeDigit9 : RoundTrip.Statement .encodeDigit9 := fun _ => rfl

theorem RoundTrip.encodeDot : RoundTrip.Statement .encodeDot := fun _ => rfl

theorem RoundTrip.encodeDash : RoundTrip.Statement .encodeDash := fun _ => rfl

theorem RoundTrip.encodeBlank : RoundTrip.Statement .encodeBlank := fun _ => rfl

theorem RoundTrip.encodeReserved (sym : BitVec 4) : RoundTrip.Statement (.encodeReserved sym) := by
  revert sym
  unfold RoundTrip.Statement
  decide

theorem RoundTrip.select (g : BitVec 4) : RoundTrip.Statement (.select g) := fun _ => rfl

theorem RoundTrip.pack (cmd : CommandCode) (mask : GridMask) (seg : SegmentPattern) :
    RoundTrip.Statement (.pack cmd mask seg) := by
  intro _
  have hc : (packWord cmd mask seg).extractLsb' 17 3 = cmd := by
    apply BitVec.eq_of_getLsbD_eq
    intro i hi
    interval_cases i <;> simp [packWord]
  have hm : (packWord cmd mask seg).extractLsb' 8 9 = mask := by
    apply BitVec.eq_of_getLsbD_eq
    intro i hi
    interval_cases i <;> simp [packWord]
  have hs : (packWord cmd mask seg).extractLsb' 0 8 = seg := by
    apply BitVec.eq_of_getLsbD_eq
    intro i hi
    interval_cases i <;> simp [packWord]
  simp only [encode, decode, hc, hm, hs]

theorem RoundTrip.frame (w : ControlWord) : RoundTrip.Statement (.frame w) := fun _ => rfl

end Sys2Proof.Laws
end

