-- ==== Sys2Proof/Laws/Sweep.lean ====
section
/-! SUPPORT. All a sweep and the body of `WRITE_STRING` can do to the state they answer, whatever the
concurrent mutator does. Proofs about whole requests cite these. -/

namespace Sys2Proof.Machine

/-- All one grid's turn can do: the mutator's stores, then the seven events of the grid with the sampled
pattern, whole. -/
theorem sweepGrid_next {gate : Gate} {settleUs : U32} {g : GridIndex} {s t : State}
    (h : sweepGrid gate settleUs g s = .next t) :
    ∃ p, s.afterTurn.buf.load g.val = some p ∧ s.txOwned = true ∧ s.latch = .low ∧
      t = { s.afterTurn with
        scan := some g
        phase := some .settle
        trace := s.trace ++ turnEvents s.params.framePad settleUs g p
        chipOut := unframe s.params.framePad (packFrame s.params.framePad 0#3 (gridMask g) p) } := by
  obtain ⟨⟨p, u⟩, hu, h⟩ := andThen_eq_next.1 h
  obtain ⟨v, hv, h⟩ := andThen_eq_next.1 h
  obtain ⟨hu2, hp⟩ := cellLoad_next hu
  obtain ⟨ho, hl, hv2⟩ := transmit_next hv
  cases h
  dsimp only at hu2 hp
  subst hu2 hv2
  refine ⟨p, hp, ho, hl, ?_⟩
  have hl' : s.latch = .low := hl
  ext <;> simp [turnEvents, frameEvents, latchHoldUs, hl', State.afterTurn]

/-- All the turns of a list of grids can do. The turns keep the latch line and the transport as they
require them. -/
theorem sweepGrids_next {gate : Gate} {settleUs : U32} {gs : List GridIndex} {s t : State}
    (h : sweepGrids gate settleUs gs s = .next t) :
    ∃ ps : List (GridIndex × Byte), ps.map Prod.fst = gs ∧
      t = { s with
        buf := t.buf
        mutator := t.mutator
        scan := t.scan
        phase := t.phase
        chipOut := t.chipOut
        trace := s.trace ++ ps.flatMap fun gp => turnEvents s.params.framePad settleUs gp.1 gp.2 } ∧
      t.mutator = s.mutator.drop gs.length ∧ (s.buf.wf → t.buf.wf) ∧ (s.buf.complete → t.buf.complete) := by
  induction gs generalizing s with
  | nil =>
    cases h
    exact ⟨[], rfl, by simp, rfl, id, id⟩
  | cons g gs ih =>
    obtain ⟨u, hu, ht⟩ := andThen_eq_next.1 h
    obtain ⟨p, -, -, -, hu⟩ := sweepGrid_next hu
    obtain ⟨ps, hps, ht, hm, hw, hc⟩ := ih ht
    subst hu
    refine ⟨(g, p) :: ps, by rw [List.map_cons, hps], ?_, by rw [hm]; simp [State.afterTurn, List.drop_tail],
      fun h => hw ((afterTurn_bufOnly s).wf h), fun h => hc ((afterTurn_bufOnly s).complete h)⟩
    rw [ht]
    simp [State.afterTurn]

/-- Pairs with distinct first components are the graph of a function. -/
theorem pairs_eq_map {α β : Type} [DecidableEq α] [Inhabited β] {gs : List α} (hn : gs.Nodup) {ps : List (α × β)}
    (h : ps.map Prod.fst = gs) : ∃ v : α → β, ps = gs.map fun g => (g, v g) := by
  induction gs generalizing ps with
  | nil => exact ⟨fun _ => default, by simpa using h⟩
  | cons g gs ih =>
    obtain ⟨hg, hgs⟩ := List.nodup_cons.1 hn
    cases ps with
    | nil => simp at h
    | cons q ps =>
      obtain ⟨rfl, hps⟩ : q.1 = g ∧ ps.map Prod.fst = gs := by simpa using h
      obtain ⟨v, rfl⟩ := ih hgs hps
      refine ⟨fun x => if x = q.1 then q.2 else v x, ?_⟩
      simp only [List.map_cons, if_true]
      refine congrArg (q :: ·) (List.map_congr_left fun x hx => ?_)
      rw [if_neg fun hxq : x = q.1 => hg (hxq ▸ hx)]

/-- All a sweep can do: nine turns in increasing order, one pattern for each grid. -/
theorem sweep_next {gate : Gate} {settleUs : U32} {s t : State} (h : sweep gate settleUs s = .next t) :
    ∃ pats : GridIndex → Byte,
      t = { s with
        buf := t.buf
        mutator := t.mutator
        scan := t.scan
        phase := t.phase
        chipOut := t.chipOut
        trace := s.trace ++ sweepEvents s.params.framePad settleUs pats } ∧
      t.mutator = s.mutator.drop 9 ∧ (s.buf.wf → t.buf.wf) ∧ (s.buf.complete → t.buf.complete) := by
  obtain ⟨ps, hps, ht, hm, hw, hc⟩ := sweepGrids_next h
  obtain ⟨v, rfl⟩ := pairs_eq_map (by decide) hps
  refine ⟨v, ?_, hm, hw, hc⟩
  rw [List.flatMap_map] at ht
  exact ht

/-- The four classes of characters, each with the bytes of it. -/
theorem charClass_cases (c : Byte) :
    (charClass c = .finish ∧ c = 0x00#8) ∨
    ((∃ sym, charClass c = .glyph sym) ∧ c ≠ 0x00#8 ∧
      ((0x30 ≤ c.toNat ∧ c.toNat ≤ 0x39) ∨ c = 0x2D#8 ∨ c = 0x20#8)) ∨
    (charClass c = .point ∧ c = 0x2E#8) ∨
    (charClass c = .ignored ∧ c ≠ 0x00#8 ∧ c ≠ 0x2E#8 ∧
      ¬ ((0x30 ≤ c.toNat ∧ c.toNat ≤ 0x39) ∨ c = 0x2D#8 ∨ c = 0x20#8)) := by
  have hc : c = BitVec.ofNat 8 c.toNat := by simp
  have hlt := c.isLt
  generalize c.toNat = n at hc hlt
  subst hc
  interval_cases n <;> first
    | exact .inl ⟨rfl, rfl⟩
    | exact .inr (.inl ⟨⟨_, rfl⟩, by decide, by decide⟩)
    | exact .inr (.inr (.inl ⟨rfl, rfl⟩))
    | exact .inr (.inr (.inr ⟨rfl, by decide, by decide, by decide⟩))

/-- All the body of `WRITE_STRING` can do, whatever the text and the mutator. -/
theorem renderText_next {text : List Byte} {cur : Nat} {s t : State} (h : renderText text cur s = .next t) :
    t = { s with buf := t.buf, mutator := t.mutator, cur := t.cur } ∧
      (s.buf.wf → t.buf.wf) ∧ (s.buf.complete → t.buf.complete) := by
  have extend : ∀ {u : State} {c : Option Nat}, BufOnly { s with cur := c } u →
      (t = { u with buf := t.buf, mutator := t.mutator, cur := t.cur } ∧
        (u.buf.wf → t.buf.wf) ∧ (u.buf.complete → t.buf.complete)) →
      t = { s with buf := t.buf, mutator := t.mutator, cur := t.cur } ∧
        (s.buf.wf → t.buf.wf) ∧ (s.buf.complete → t.buf.complete) := by
    rintro u c hu ⟨ht, hw, hc⟩
    exact ⟨by rw [ht, hu.eq], fun h => hw (hu.wf h), fun h => hc (hu.complete h)⟩
  induction text generalizing cur s with
  | nil =>
    cases h
    exact ⟨rfl, id, id⟩
  | cons c rest ih =>
    have ih' := fun {cur : Nat} {u : State} (h : renderText rest cur u = .next t) => ih h (by
      rintro v c hu ⟨ht, hw, hc⟩
      exact ⟨by rw [ht, hu.eq], fun h => hw (hu.wf h), fun h => hc (hu.complete h)⟩)
    simp only [renderText] at h
    split at h
    · split at h
      · cases h
        exact ⟨rfl, id, id⟩
      · obtain ⟨u, hu, ht⟩ := andThen_eq_next.1 h
        exact extend (cellStore_bufOnly hu) (ih' ht)
      · split at h
        · obtain ⟨⟨p, u⟩, hu, h⟩ := andThen_eq_next.1 h
          obtain ⟨v, hv, ht⟩ := andThen_eq_next.1 h
          obtain ⟨hu, -⟩ := cellLoad_next hu
          dsimp only at hu hv
          subst hu
          exact extend ((afterTurn_bufOnly _).trans (cellStore_bufOnly hv)) (ih' ht)
        · exact extend (.refl _) (ih' h)
      · exact extend (.refl _) (ih' h)
    · cases h
      exact ⟨rfl, id, id⟩

/-- Traces in whole frames, one after the other, are a trace in whole frames. -/
theorem framed_append {pad : PadPosition} {xs ys : List Event} (hx : framed pad xs = true)
    (hy : framed pad ys = true) : framed pad (xs ++ ys) = true := by
  induction xs using framed.induct with
  | case1 => exact hy
  | case2 b0 b1 b2 us rest ih =>
    simp only [framed, Bool.and_eq_true, List.cons_append] at hx ⊢
    exact ⟨hx.1, ih hx.2⟩
  | case3 rest ih => exact ih hx
  | case4 us rest ih => exact ih hx
  | case5 rest ih => exact ih hx
  | case6 es h1 h2 h3 h4 h5 =>
    exfalso
    rw [framed.eq_def] at hx
    split at hx
    · exact h1 rfl
    · exact h2 _ _ _ _ _ rfl
    · exact h3 _ rfl
    · exact h4 _ _ rfl
    · exact h5 _ rfl
    · cases hx

end Sys2Proof.Machine
end

