-- ==== Sys2Proof/Tests/Slice0.lean ====
section
/-! SUPPORT. Tests, one step each, with the expected results of spec 95_test_vectors.md (the section is
named with each group), the refusals of ill-formed terms, and a witness for the hypotheses of each
obligation. -/

namespace Sys2Proof.Tests

open Sys2Proof Sys2Proof.Machine

/-! ## Small states -/

/-- The default parameters with numbers for the line identities. -/
def params : Params :=
  { defaultParams with
    defaultPinData := ⟨1⟩
    defaultPinClk := ⟨2⟩
    defaultPinLatch := ⟨3⟩
    spiMode := ⟨false, false⟩ }

/-- Right after reset. -/
def fresh : State := { State.reset with params := params, chipOut := 0#20 }

/-- After a successful `INITIALIZE`, every cell holding `p`. -/
def ready (p : Byte) : State :=
  { fresh with
    life := .init (defaultCfg params)
    buf := (List.range 9).map fun a => (a, p)
    latch := .low
    txOwned := true }

/-- After `DEINITIALIZE`. -/
def stopped : State := { fresh with life := .deinit, trace := [.release] }

/-- With a concurrent mutator that stores `v` to cell `g` at interleaving point `k`, counted from 0. -/
def ready.mutated (k : Nat) (g : GridIndex) (v : Byte) : State :=
  { ready 0x00#8 with
    params := { params with concurrentMutator := true }
    mutator := List.replicate k [] ++ [[⟨g, v⟩]] }

/-- A transport that takes nothing. -/
def deaf : State := { fresh with params := { params with transport := .not .anything } }

/-- The host's next action is `a`. -/
def doing (a : HostAction) (s : State) : State := { s with host := [a] }

/-- The request word `w` with no side operand. -/
def req (w : RequestWord) : HostAction := .present (.request w [] zeroCfg)

/-- One thing of the next state, if there is one. -/
def got {α : Type} (f : State → α) (o : Host.Outcome State Fault Refusal) : Option α :=
  match o with
  | .next t => some (f t)
  | .fault _ => none
  | .refused _ => none

/-- Whether there is a next state. -/
def goes (o : Host.Outcome State Fault Refusal) : Bool := (got (fun _ => ()) o).isSome

theorem goes_next {o : Host.Outcome State Fault Refusal} (h : goes o = true) : ∃ t, o = .next t := by
  cases o with
  | next t => exact ⟨t, rfl⟩
  | fault r => cases h
  | refused r => cases h

/-- The bytes of the cells. -/
def cells (s : State) : List Byte := s.buf.map Prod.snd

/-- The bytes handed to the sink, in order. -/
def sunk (s : State) : List Byte :=
  s.trace.filterMap fun e =>
    match e with
    | .sink b => some b
    | .latch _ => none
    | .wait _ => none
    | .release => none

/-! ## Well-formedness: the ill-formed terms -/

theorem test_wf_refuses_code_0 : (Instr.encodeReserved 0x0#4).wf = false := by decide
theorem test_wf_refuses_code_C : (Instr.encodeReserved 0xC#4).wf = false := by decide
theorem test_wf_admits_code_D : (Instr.encodeReserved 0xD#4).wf = true := by decide

/-! ## Decoding: words written out from the encodings of 30_encoding.md R80, R91, R96, R98 -/

theorem test_decode_initialize : decodeTableWord 16 0b0000_0000_0000_0000 = some (.initializeBlock none) := by
  decide
theorem test_decode_initialize_cfg :
    decodeTableWord 16 0b0000_0000_0000_0001 = some (.initializeBlock (some zeroCfg)) := by decide
theorem test_decode_initialize_bad_data : decodeTableWord 16 0x0002 = none := by decide
theorem test_decode_deinitialize : decodeTableWord 16 0b0001_0000_0000_0000 = some .deinitialize := by decide
theorem test_decode_write_segments :
    decodeTableWord 16 0b0010_0100_1010_0101 = some (.writeSegments 4#4 0xA5#8) := by decide
theorem test_decode_write_digit :
    decodeTableWord 16 0b0011_1001_0000_1100 = some (.writeDigit 9#4 12#8) := by decide
theorem test_decode_write_string :
    decode (.request 0x4000#16 [0x31#8] zeroCfg) = .ok (.writeString [0x31#8]) := by rfl
theorem test_decode_clear : decodeTableWord 16 0b0101_0000_0000_0000 = some .clear := by decide
theorem test_decode_fill : decodeTableWord 16 0b0110_0000_1111_0000 = some (.fill 0xF0#8) := by decide
theorem test_decode_read_segments :
    decodeTableWord 16 0b0111_0100_0000_0000 = some (.readSegments 4#4) := by decide
theorem test_decode_refresh : decodeTableWord 16 0b1000_0000_0000_0000 = some .refresh := by decide
theorem test_decode_send_command :
    decodeTableWord 16 0b1001_0000_0000_0101 = some (.sendCommand 5#8) := by decide
theorem test_decode_reserved_op_B :
    decodeTableWord 16 0b1011_0000_0000_0001 = some (.reservedOpAB 0x1001#13) := by decide
theorem test_decode_reserved_op_F :
    decodeTableWord 16 0b1111_0000_0000_0001 = some (.reservedOpCF 0x3001#14) := by decide
theorem test_decode_frame_display :
    decodeTableWord 24 0b000_000000001_01101111_0000 = some (.frameDisplay 8 0x6F#8) := by decide
theorem test_decode_frame_two_grids : decodeTableWord 24 0x1013F0 = none := by decide
theorem test_decode_frame_cmd : decodeTableWord 24 0b101_000000000_00000000_0000 = some (.frameCmd 5#3) := by
  decide
theorem test_decode_encode_9 : decodeTableWord 8 0b1001 = some .encodeDigit9 := by decide
theorem test_decode_encode_dash : decodeTableWord 8 0b1011 = some .encodeDash := by decide
theorem test_decode_encode_reserved : decodeTableWord 8 0b1111 = some (.encodeReserved 0xF#4) := by decide
theorem test_decode_pack : decode (.pack 0x6085A#20) = .ok (.pack 3#3 0x008#9 0x5A#8) := by rfl
theorem test_decode_select : decode (.select 9#4) = .ok (.select 9#4) := by rfl
theorem test_decode_frame : decode (.frame 0xA0000#20) = .ok (.frame 0xA0000#20) := by rfl

/-! ## The combinational ports (95_test_vectors.md §2.1 to §2.4) -/

theorem test_encode_digits :
    [exec .encodeDigit0, exec .encodeDigit1, exec .encodeDigit2, exec .encodeDigit3, exec .encodeDigit4,
      exec .encodeDigit5, exec .encodeDigit6, exec .encodeDigit7, exec .encodeDigit8, exec .encodeDigit9].map
      (fun run => got State.portOut (run fresh)) =
    [0x3F#8, 0x06#8, 0x5B#8, 0x4F#8, 0x66#8, 0x6D#8, 0x7D#8, 0x07#8, 0x7F#8, 0x6F#8].map
      (fun p => some (.pattern p)) := by decide
theorem test_encode_others :
    [exec .encodeDot, exec .encodeDash, exec .encodeBlank].map (fun run => got State.portOut (run fresh)) =
    [0x80#8, 0x40#8, 0x00#8].map (fun p => some (.pattern p)) := by decide
theorem test_encode_reserved : exec (.encodeReserved 0xE#4) fresh = .refused .reservedSymbol := by rfl
theorem test_select_3 : got State.portOut (exec (.select 3#4) fresh) = some (.mask 0x020#9) := by decide
theorem test_select_9 : got State.portOut (exec (.select 9#4) fresh) = some (.portStatus .invalidGrid) := by
  decide
theorem test_pack_3 : got State.portOut (exec (.pack 3#3 0x008#9 0x5A#8) fresh) = some (.word 0x6085A#20) := by
  decide
theorem test_pack_full :
    got State.portOut (exec (.pack 7#3 0x1FF#9 0xFF#8) fresh) = some (.word 0xFFFFF#20) := by decide
theorem test_frame_low :
    got State.portOut (exec (.frame 0x6085A#20) fresh) = some (.frame ⟨0x60#8, 0x85#8, 0xA0#8⟩) := by decide
theorem test_frame_high :
    got State.portOut (exec (.frame 0x6085A#20) { fresh with params := { params with framePad := .high } }) =
      some (.frame ⟨0x06#8, 0x08#8, 0x5A#8⟩) := by decide

/-! ## The buffer requests (95_test_vectors.md §2.6, §2.7) -/

theorem test_write_segments_4 :
    got cells (step ((ready 0#8).withFetchWord 16 0x24A5)) = some [0, 0, 0, 0, 0xA5, 0, 0, 0, 0] := by decide
theorem test_write_segments_9 :
    got State.response (step ((ready 0#8).withFetchWord 16 0x29FF)) = some (some ⟨.invalidGrid, none⟩) := by
  decide
theorem test_write_digit_0_5 :
    got cells (step ((ready 0#8).withFetchWord 16 0x3005)) = some [0x6D, 0, 0, 0, 0, 0, 0, 0, 0] := by decide
theorem test_write_digit_grid_first :
    got State.response (step ((ready 0#8).withFetchWord 16 0x390C)) = some (some ⟨.invalidGrid, none⟩) := by
  decide
theorem test_fill : got cells (step ((ready 0#8).withFetchWord 16 0x60FF)) = some (List.replicate 9 0xFF) := by
  decide
theorem test_clear : got cells (step ((ready 0xFF#8).withFetchWord 16 0x5000)) = some (List.replicate 9 0) := by
  decide
theorem test_read_segments_4 :
    got State.response (step ((ready 0xA5#8).withFetchWord 16 0x7400)) = some (some ⟨.ok, some 0xA5#8⟩) := by
  decide
theorem test_read_segments_9 :
    got State.response (step ((ready 0xA5#8).withFetchWord 16 0x7900)) = some (some ⟨.invalidGrid, none⟩) := by
  decide
/-- The text `-8.8.`. -/
theorem test_write_string_points :
    got cells (exec (.writeString [0x2D#8, 0x38#8, 0x2E#8, 0x38#8, 0x2E#8]) (ready 0x55#8)) =
      some [0x40, 0xFF, 0xFF, 0, 0, 0, 0, 0, 0] := by decide
/-- The text `.1:2`, a NUL and `3`. -/
theorem test_write_string_skips :
    got cells (exec (.writeString [0x2E#8, 0x31#8, 0x3A#8, 0x32#8, 0x00#8, 0x33#8]) (ready 0x55#8)) =
      some [0x06, 0x5B, 0, 0, 0, 0, 0, 0, 0] := by decide

/-! ## Sweeps and frames (95_test_vectors.md §2.4, §2.5, §2.8) -/

theorem test_refresh_frames :
    got sunk (exec .refresh (ready 0xFF#8)) =
      some [0x10, 0x0F, 0xF0, 0x08, 0x0F, 0xF0, 0x04, 0x0F, 0xF0, 0x02, 0x0F, 0xF0, 0x01, 0x0F, 0xF0,
        0x00, 0x8F, 0xF0, 0x00, 0x4F, 0xF0, 0x00, 0x2F, 0xF0, 0x00, 0x1F, 0xF0] := by decide
theorem test_refresh_first_events :
    got (fun t => t.trace.take 7) (exec .refresh (ready 0x00#8)) =
      some [.sink 0x10#8, .sink 0x00#8, .sink 0x00#8, .latch .high, .wait 1, .latch .low, .wait 1500] := by
  decide
theorem test_send_command_5 :
    got State.trace (step ((ready 0#8).withFetchWord 16 0x9005)) =
      some [.sink 0xA0#8, .sink 0x00#8, .sink 0x00#8, .latch .high, .wait 1, .latch .low] := by decide
theorem test_send_command_8 :
    got State.response (step ((ready 0#8).withFetchWord 16 0x9008)) = some (some ⟨.invalidParam, none⟩) := by
  decide
theorem test_frame_display :
    got State.trace (step ((ready 0#8).withFetchWord 24 0x1003F0)) =
      some [.sink 0x10#8, .sink 0x03#8, .sink 0xF0#8, .latch .high, .wait 1, .latch .low] := by decide
theorem test_frame_cmd :
    got sunk (step ((ready 0#8).withFetchWord 24 0xE00000)) = some [0xE0, 0x00, 0x00] := by decide
/-- The torn mix of 95_test_vectors.md §2.8: a store to grid 1 after its sample is not in this sweep. -/
theorem test_refresh_torn :
    got (fun t => (sunk t).take 9)
        (exec .refresh { ready.mutated 2 1 0x06#8 with mutator := [[], [], [⟨1, 0x06#8⟩, ⟨2, 0x5B#8⟩]] }) =
      some [0x10, 0x00, 0x00, 0x08, 0x00, 0x00, 0x04, 0x05, 0xB0] := by decide

/-! ## The lifecycle (95_test_vectors.md §2.9) -/

theorem test_initialize_from_reset :
    got (fun t => (cells t, t.latch, t.txOwned)) (step (State.reset.withFetchWord 16 0x0000)) =
        some (List.replicate 9 0x00#8, .low, true) ∧
      got (fun t => (t.trace, t.response)) (step (State.reset.withFetchWord 16 0x0000)) =
        some ([.latch .low], some ⟨.ok, none⟩) := by decide
/-- Steps 2 to 4 of program P3, with its own `TRANSPORT_ACCEPTS`. -/
theorem test_initialize_P3 :
    [(⟨2000000#32, ⟨5⟩, ⟨5⟩, ⟨5⟩, 0#32⟩ : DriverConfig), ⟨50000000#32, ⟨5⟩, ⟨5⟩, ⟨5⟩, 1000#32⟩,
      ⟨1000000#32, ⟨5⟩, ⟨5⟩, ⟨5⟩, 1000#32⟩].map
      (fun c => got (fun t => t.response.map Response.status) (exec (.initializeBlock (some c))
        { fresh with params := { params with transport := .clockAtMost 10000000#32 } })) =
    [some (some .invalidParam), some (some .hardwareError), some (some .ok)] := by decide
theorem test_deinitialize :
    got (fun t => (t.life, t.buf, t.latch, t.txOwned)) (exec .deinitialize (ready 0x7F#8)) =
        some (.deinit, [], .undriven, false) ∧
      got (fun t => (t.trace.length, t.trace.getLast?)) (exec .deinitialize (ready 0x7F#8)) =
        some (64, some .release) := by decide
theorem test_deinitialize_blank_sweep :
    got (fun t => (sunk t).take 6) (exec .deinitialize (ready 0x7F#8)) =
      some [0x10, 0x00, 0x00, 0x08, 0x00, 0x00] := by decide

/-! ## Reserved words (95_test_vectors.md §2.6) -/

theorem test_reserved_op_A : step ((ready 0#8).withFetchWord 16 0xA000) = .refused .reservedOp := by rfl
theorem test_reserved_op_C : step ((ready 0#8).withFetchWord 16 0xC000) = .refused .reservedOp := by rfl
theorem test_reserved_field : step (doing (req 0x5001#16) (ready 0#8)) = .refused .reservedField := by rfl

/-! ## Witnesses: states and operands that meet the hypotheses of each obligation -/

theorem not_init_fresh : ∀ cfg, fresh.life ≠ .init cfg := fun _ h => by cases h
theorem not_init_stopped : ∀ cfg, stopped.life ≠ .init cfg := fun _ h => by cases h
theorem not_init_deaf : ∀ cfg, deaf.life ≠ .init cfg := fun _ h => by cases h

theorem witness_EveryInstructionDecodesBack : (Instr.encodeReserved 0xD#4).wf = true := by decide
theorem witness_RequestWordsEncodeBack :
    decode (.request 0x24A5#16 [] zeroCfg) = .ok (.writeSegments 4#4 0xA5#8) := by rfl
theorem witness_NonzeroReservedFieldRefused_grid :
    (doing (req 0x0F00#16) fresh).host = .present (.request 0x0F00#16 [] zeroCfg) :: [] ∧
      BitVec.extractLsb' 8 4 0x0F00#16 ≠ 0#4 ∧
      BitVec.extractLsb' 12 4 0x0F00#16 ∈ [0x0#4, 0x1#4, 0x4#4, 0x5#4, 0x6#4, 0x8#4, 0x9#4] := by decide
theorem witness_NonzeroReservedFieldRefused_data :
    (doing (req 0x7801#16) fresh).host = .present (.request 0x7801#16 [] zeroCfg) :: [] ∧
      BitVec.extractLsb' 0 8 0x7801#16 ≠ 0#8 ∧
      BitVec.extractLsb' 12 4 0x7801#16 ∈ [0x1#4, 0x4#4, 0x5#4, 0x7#4, 0x8#4] := by decide
theorem witness_NonzeroReservedFieldRefused_has_cfg :
    (doing (req 0x0002#16) fresh).host = .present (.request 0x0002#16 [] zeroCfg) :: [] ∧
      BitVec.extractLsb' 1 7 0x0002#16 ≠ 0#7 ∧ BitVec.extractLsb' 12 4 0x0002#16 = 0x0#4 := by decide
theorem witness_ReservedOpsRefused :
    (doing (req 0xA000#16) fresh).host = .present (.request 0xA000#16 [] zeroCfg) :: [] ∧
      0xA ≤ (BitVec.extractLsb' 12 4 0xA000#16).toNat := by decide
theorem witness_ReservedSymbolsRefused :
    (doing (.present (.encode 0xD#4)) fresh).host = .present (.encode 0xD#4) :: [] ∧
      0xD ≤ (0xD#4).toNat := by decide
theorem witness_PackedWordsHaveTheirClass :
    (0x3F#8 : SegmentPattern) ≠ 0#8 ∧
      (0x003#9 : GridMask) ≠ 0#9 ∧ (∀ g : GridIndex, (0x003#9 : GridMask) ≠ gridMask g) ∧
      (0x1FF#9 : GridMask) ≠ 0#9 ∧ ∀ g : GridIndex, (0x1FF#9 : GridMask) ≠ gridMask g := by decide
theorem witness_SelectPort : (8#4).toNat ≤ 8 ∧ 9 ≤ (9#4).toNat := by decide
theorem witness_FramePort :
    fresh.params.framePad = .low ∧
      ({ fresh with params := { params with framePad := .high } } : State).params.framePad = .high := by decide

theorem witness_InitializeApplies_default :
    fresh.mutator = [] ∧ (∀ cfg, fresh.life ≠ .init cfg) ∧
      defaultCfg params = (none : Option DriverConfig).getD ⟨2000000#32, fresh.params.defaultPinData,
        fresh.params.defaultPinClk, fresh.params.defaultPinLatch, 1500#32⟩ ∧
      (defaultCfg params).clockHz ≠ 0#32 ∧ (defaultCfg params).settleUs ≠ 0#32 ∧
      transportAccepts fresh.params (defaultCfg params) = true :=
  ⟨rfl, not_init_fresh, rfl, by decide, by decide, by decide⟩
theorem witness_InitializeApplies_given :
    stopped.mutator = [] ∧ (∀ cfg, stopped.life ≠ .init cfg) ∧
      (⟨1#32, ⟨7⟩, ⟨8⟩, ⟨9⟩, 1#32⟩ : DriverConfig) =
        (some (⟨1#32, ⟨7⟩, ⟨8⟩, ⟨9⟩, 1#32⟩ : DriverConfig)).getD ⟨2000000#32,
          stopped.params.defaultPinData, stopped.params.defaultPinClk, stopped.params.defaultPinLatch,
          1500#32⟩ ∧
      (1#32 : U32) ≠ 0#32 ∧ transportAccepts stopped.params ⟨1#32, ⟨7⟩, ⟨8⟩, ⟨9⟩, 1#32⟩ = true :=
  ⟨rfl, not_init_stopped, rfl, by decide, by decide⟩
theorem witness_InitializeFails_param :
    fresh.mutator = [] ∧ (∀ cfg, fresh.life ≠ .init cfg) ∧
      zeroCfg = (some zeroCfg).getD ⟨2000000#32, fresh.params.defaultPinData, fresh.params.defaultPinClk,
        fresh.params.defaultPinLatch, 1500#32⟩ ∧ (zeroCfg.clockHz = 0#32 ∨ zeroCfg.settleUs = 0#32) :=
  ⟨rfl, not_init_fresh, rfl, by decide⟩
theorem witness_InitializeFails_hardware :
    deaf.mutator = [] ∧ (∀ cfg, deaf.life ≠ .init cfg) ∧
      defaultCfg params = (none : Option DriverConfig).getD ⟨2000000#32, deaf.params.defaultPinData,
        deaf.params.defaultPinClk, deaf.params.defaultPinLatch, 1500#32⟩ ∧
      (defaultCfg params).clockHz ≠ 0#32 ∧ (defaultCfg params).settleUs ≠ 0#32 ∧
      transportAccepts deaf.params (defaultCfg params) = false :=
  ⟨rfl, not_init_deaf, rfl, by decide, by decide, by decide⟩
/-- Also the witness of every statement about one request in `INIT` with no concurrent store. -/
theorem witness_ready :
    (ready 0#8).mutator = [] ∧ (ready 0#8).life = .init (defaultCfg params) ∧ (ready 0#8).txOwned = true ∧
      (ready 0#8).latch = .low ∧ ∀ g : GridIndex, (ready 0#8).buf.load g.val = some 0#8 := by decide
/-- The witness of every clause on a request outside `INIT`. -/
theorem witness_not_init : fresh.mutator = [] ∧ ∀ cfg, fresh.life ≠ .init cfg := ⟨rfl, not_init_fresh⟩
theorem witness_RequestsNeedInit :
    isRequest .deinitialize = true ∧ (∀ arg, Instr.deinitialize ≠ .initializeBlock arg) ∧
      stopped.mutator = [] ∧ (∀ cfg, stopped.life ≠ .init cfg) :=
  ⟨rfl, fun _ h => (by cases h), rfl, not_init_stopped⟩
theorem witness_LifecycleChanges :
    (∃ t, exec (.initializeBlock none) fresh = .next t) ∧ (∃ t, exec .deinitialize (ready 0#8) = .next t) ∧
      ∃ t, exec .clear fresh = .next t :=
  ⟨goes_next (by decide), goes_next (by decide), goes_next (by decide)⟩

theorem witness_grid_bounds : (8#4).toNat ≤ 8 ∧ 9 ≤ (9#4).toNat ∧ (9#8).toNat ≤ 9 ∧ 10 ≤ (10#8).toNat := by
  decide
theorem witness_ReadSegments :
    (ready 0xA5#8).mutator = [] ∧ (ready 0xA5#8).life = .init (defaultCfg params) ∧ (8#4).toNat ≤ 8 ∧
      (ready 0xA5#8).buf.load (8#4).toNat = some 0xA5#8 := by decide
theorem witness_WriteStringDrops :
    9 ≤ (List.replicate 9 0x2D#8).countP
      (fun c => decide (c = 0x20#8 ∨ c = 0x2D#8 ∨ (0x30 ≤ c.toNat ∧ c.toNat ≤ 0x39))) := by decide
theorem witness_WriteStringSkips :
    (0x2F#8 : Byte) ∉ [0x00#8, 0x20#8, 0x2D#8, 0x2E#8] ∧ ¬ (0x30 ≤ (0x2F#8).toNat ∧ (0x2F#8).toNat ≤ 0x39) ∧
      (0x3A#8 : Byte) ∉ [0x00#8, 0x20#8, 0x2D#8, 0x2E#8] ∧
      ¬ (0x30 ≤ (0x3A#8).toNat ∧ (0x3A#8).toNat ≤ 0x39) := by decide
theorem witness_PseudoRequests :
    (9#8 : Byte).toNat ≤ 9 ∧ symbolOfCode ((9#8 : Byte).setWidth 4) = some .d9 := by decide
theorem witness_FailedRequests :
    isRequest (.fill 0#8) = true ∧ fresh.mutator = [] ∧
      got State.response (exec (.fill 0#8) fresh) = some (some ⟨.notInitialized, none⟩) ∧
      Status.notInitialized ≠ .ok := by decide
theorem witness_InvalidSegment :
    got State.response (exec .clear fresh) = some (some ⟨.notInitialized, none⟩) ∧
      some (⟨.notInitialized, none⟩ : Response) ≠ fresh.response := by decide
theorem witness_BufferRequests :
    ∃ t, exec (.writeString [0x31#8]) (ready.mutated 3 0 0x55#8) = .next t :=
  goes_next (by decide)

theorem witness_DirectHandle_store :
    (doing (.handleStore 8 0xA5#8) (ready 0#8)).life = .init (defaultCfg params) ∧
      (doing (.handleStore 8 0xA5#8) (ready 0#8)).host = .handleStore 8 0xA5#8 :: [] ∧ 8 < 9 := by decide
theorem witness_DirectHandle_load :
    (doing (.handleLoad 8) (ready 0#8)).life = .init (defaultCfg params) ∧
      (doing (.handleLoad 8) (ready 0#8)).host = .handleLoad 8 :: [] ∧ 8 < 9 ∧
      (doing (.handleLoad 8) (ready 0#8)).buf.load 8 = some 0#8 := by decide
theorem witness_DirectHandle_index :
    (doing (.handleLoad 9) (ready 0#8)).life = .init (defaultCfg params) ∧
      (doing (.handleLoad 9) (ready 0#8)).host = .handleLoad 9 :: [] ∧ 9 ≤ 9 := by decide
theorem witness_DirectHandle_absent :
    (∀ cfg, (doing (.handleLoad 0) stopped).life ≠ .init cfg) ∧
      (doing (.handleLoad 0) stopped).host = .handleLoad 0 :: [] :=
  ⟨not_init_stopped, rfl⟩
theorem witness_HandleStoreIsSeen :
    ({ ready 0#8 with host := [.handleStore 8 0xA5#8, req 0x7800#16] } : State).host =
        .handleStore (8 : GridIndex).val 0xA5#8 ::
          .present (.request (BitVec.ofNat 16 (0x7000 + 0x100 * (8 : GridIndex).val)) [] zeroCfg) :: [] := by
  decide
theorem witness_RData_answer :
    got State.response (exec (.readSegments 8#4) (ready 0xA5#8)) = some (some ⟨.ok, some 0xA5#8⟩) ∧
      (some ⟨.ok, some 0xA5#8⟩ : Option Response) ≠ (ready 0xA5#8).response := by decide
theorem witness_RData :
    (doing .readRData { fresh with response := some ⟨.ok, some 0#8⟩ }).host = .readRData :: [] ∧
      (doing .readRData { fresh with response := some ⟨.ok, some 0#8⟩ }).response = some ⟨.ok, some 0#8⟩ ∧
      (doing .readRData { fresh with response := some ⟨.ok, none⟩ }).response = some ⟨.ok, none⟩ ∧
      (doing .readRData fresh).response = none := by decide

theorem witness_SendCommand : (7#8).toNat ≤ 7 ∧ 8 ≤ (8#8).toNat := by decide
theorem witness_WireFrames_stop :
    fresh.txOwned = false ∧ ({ ready 0#8 with latch := .high } : State).latch ≠ .low := by decide
theorem witness_OnlyGridEight :
    (ready 0x7F#8).life = .init (defaultCfg params) ∧
      got (fun t => displayLit params t.chipOut 8 .a) (exec .refresh (ready 0x7F#8)) = some true ∧
      goes (exec (.sendCommand 7#8) (ready 0x7F#8)) = true := by decide

/-- The values each grid carries when the mutator stores 0x55 to grid 4 before grid 4's sample. -/
def tornPats (g : GridIndex) : Byte := if g = 4 then 0x55#8 else 0x00#8

theorem witness_EachGridCarriesItsSample :
    (ready.mutated 4 4 0x55#8).params.concurrentMutator = true ∧
      (ready.mutated 4 4 0x55#8).life = .init (defaultCfg params) ∧
      (ready.mutated 4 4 0x55#8).txOwned = true ∧ (ready.mutated 4 4 0x55#8).latch = .low ∧
      ∀ g : GridIndex, ((ready.mutated 4 4 0x55#8).bufAfterTurns (g.val + 1)).load g.val = some (tornPats g) := by
  decide
theorem witness_CellAccesses :
    (ready.mutated 0 8 0x55#8).params.concurrentMutator = true ∧
      (ready.mutated 0 8 0x55#8).life = .init (defaultCfg params) ∧ (8#4).toNat ≤ 8 ∧
      ((ready.mutated 0 8 0x55#8).bufAfterTurns 1).load (8#4).toNat = some 0x55#8 := by decide
theorem witness_StoreBetween :
    (ready.mutated 11 0 0x55#8).params.concurrentMutator = true ∧
      (ready.mutated 11 0 0x55#8).life = .init (defaultCfg params) ∧
      (ready.mutated 11 0 0x55#8).mutator = List.replicate 11 [] ++ [[⟨0, 0x55#8⟩]] := by decide
/-- For `CLEAR`, `FILL` and the empty text under concurrent stores. -/
theorem witness_CellAccesses_all :
    (ready.mutated 9 8 0x55#8).params.concurrentMutator = true ∧
      (ready.mutated 9 8 0x55#8).life = .init (defaultCfg params) ∧
      (Instr.fill 0x01#8 = .fill 0x01#8 ∨
        (0x01#8 = 0x00#8 ∧ (Instr.fill 0x01#8 = .clear ∨ Instr.fill 0x01#8 = .writeString []))) ∧
      (Instr.writeString [] = .fill 0x00#8 ∨
        (0x00#8 = 0x00#8 ∧ (Instr.writeString [] = .clear ∨ Instr.writeString [] = .writeString []))) := by
  decide
/-- The last point of a successful `INITIALIZE`. -/
theorem witness_ConcurrentStoresBarred_initialize :
    isRequest (.initializeBlock none) = true ∧
      ({ fresh with mutator := List.replicate 9 [] ++ [[⟨0, 1#8⟩]] } : State).mutator =
        List.replicate 9 [] ++ ([⟨0, 1#8⟩]) :: [] ∧
      9 < interleavingPoints (.initializeBlock none)
        { fresh with mutator := List.replicate 9 [] ++ [[⟨0, 1#8⟩]] } ∧
      ∀ cfg, fresh.life ≠ .init cfg :=
  ⟨rfl, rfl, by decide, not_init_fresh⟩
/-- The last point of `DEINITIALIZE`. -/
theorem witness_ConcurrentStoresBarred_deinitialize :
    isRequest .deinitialize = true ∧
      (ready.mutated 18 0 1#8).mutator = List.replicate 18 [] ++ ([⟨0, 1#8⟩]) :: [] ∧
      18 < interleavingPoints .deinitialize (ready.mutated 18 0 1#8) ∧
      (ready.mutated 18 0 1#8).buf.complete ∧ (ready.mutated 18 0 1#8).txOwned = true ∧
      (ready.mutated 18 0 1#8).latch = .low := by decide
/-- The last point of `READ_SEGMENTS` in `INIT`, with no concurrent mutator. -/
theorem witness_ConcurrentStoresBarred_absent :
    isRequest (.readSegments 8#4) = true ∧
      ({ ready 0#8 with mutator := [[], [⟨0, 1#8⟩]] } : State).mutator =
        List.replicate 1 [] ++ ([⟨0, 1#8⟩]) :: [] ∧
      1 < interleavingPoints (.readSegments 8#4) { ready 0#8 with mutator := [[], [⟨0, 1#8⟩]] } ∧
      (ready 0#8).params.concurrentMutator = false ∧ (ready 0#8).buf.complete ∧
      (ready 0#8).txOwned = true ∧ (ready 0#8).latch = .low := by decide
theorem witness_RequestsTakeTheirPoints :
    isRequest (.writeString [0x31#8, 0x2E#8]) = true ∧
      ∃ t, exec (.writeString [0x31#8, 0x2E#8]) (ready.mutated 12 0 1#8) = .next t :=
  ⟨rfl, goes_next (by decide)⟩

theorem witness_StepRuns :
    (doing (req 0x5000#16) fresh).host = .present (.request 0x5000#16 [] zeroCfg) :: [] ∧
      decode (.request 0x5000#16 [] zeroCfg) = .ok .clear ∧ fresh.host = [] :=
  ⟨rfl, rfl, rfl⟩
theorem witness_HardReset : (doing .hardReset (ready 0#8)).host = .hardReset :: [] := by decide

/-- A state of the invariant in `INIT`, with a request presented. -/
theorem ready_inv (a : HostAction) : (doing a (ready 0xFF#8)).Inv :=
  { bufWf := by
      show (ready 0xFF#8).buf.wf
      decide
    noScan := rfl
    noPhase := rfl
    noCur := rfl
    whileInit := fun cfg h => by
      cases h
      exact ⟨(by decide : (ready 0xFF#8).buf.complete), rfl, rfl, (by decide : (2000000#32 : U32) ≠ 0#32),
        (by decide : (1500#32 : U32) ≠ 0#32), rfl⟩
    whileNotInit := fun h => absurd rfl (h _)
    silentUninit := fun h => by cases h }

theorem witness_EveryStepKeepsTheInvariant :
    (doing (req 0x1000#16) (ready 0xFF#8)).Inv ∧ ∃ t, step (doing (req 0x1000#16) (ready 0xFF#8)) = .next t :=
  ⟨ready_inv _, goes_next (by decide)⟩
theorem witness_EveryStepKeepsFramesWhole :
    framed params.framePad (doing (req 0x9005#16) (ready 0#8)).trace = true ∧
      ∃ t, step (doing (req 0x9005#16) (ready 0#8)) = .next t :=
  ⟨by decide, goes_next (by decide)⟩
theorem witness_InvariantRulesOut :
    (doing (req 0x8000#16) (ready 0xFF#8)).Inv ∧
      ∀ f later, (doing (req 0x8000#16) (ready 0xFF#8)).host ≠ .present (.link f) :: later :=
  ⟨ready_inv _, fun _ _ h => by cases h⟩
theorem witness_TraceGrows : ∃ t, exec .deinitialize (ready 0#8) = .next t := goes_next (by decide)

end Sys2Proof.Tests
end

section
/-! PROOFS of the state family: what a successful `INITIALIZE` leaves (spec 44_lifecycle.md R230), and the
state after reset (10_state.md R36). -/

namespace Sys2Proof.Machine

/-- Outside `INIT`, `INITIALIZE` applies the configuration it carries, or the default one. Spec
10_state.md R29. -/
theorem exec_initializeBlock_not_init (arg : Option DriverConfig) {s : State}
    (h : ∀ cfg, s.life ≠ .init cfg) :
    exec (.initializeBlock arg) s = applyConfig (arg.getD (defaultCfg s.params)) s := by
  show execInitialize arg s = _
  unfold execInitialize
  split
  · exact absurd ‹_› (h _)
  · rfl
  · rfl

/-- A configuration that passes both checks of `INITIALIZE` is applied: the transport is taken, every
cell is blanked and the answer is `OK`. -/
theorem applyConfig_accepted {c : DriverConfig} {s : State} (hm : s.mutator = [])
    (hclock : c.clockHz ≠ 0#32) (hsettle : c.settleUs ≠ 0#32)
    (haccept : transportAccepts s.params c = true) :
    applyConfig c s = .next
      (State.answer { s.takeTransport with
        buf := s.buf.storeAll blankPattern allGrids
        life := .init c } .ok none) := by
  have cleared := storeEach_quiet .bars blankPattern allGrids (s := s.takeTransport) hm
  simp only [applyConfig, hclock, hsettle, haccept, cleared, or_self, Bool.true_eq_false, if_false,
    andThen_next, takeTransport_buf]
  exact respond_quiet .bars .ok none hm

/-- Settles O18: outside `INIT` the request is `applyConfig`, which here passes its checks, and the nine
stores of the blank pattern are what the buffer then reads. -/
theorem initializeAppliesItsConfiguration : Obligations.InitializeAppliesItsConfiguration := by
  unfold Obligations.InitializeAppliesItsConfiguration
  intro arg s c hm hlife hc hclock hsettle haccept
  have run : exec (.initializeBlock arg) s = applyConfig c s := by
    rw [exec_initializeBlock_not_init arg hlife, hc]
    rfl
  exact ⟨_, run.trans (applyConfig_accepted hm hclock hsettle haccept), rfl,
    load_storeAll_allGrids s.buf blankPattern⟩

/-- Settles O48: the memory after reset lists no cell, and every other row is a field of `State.reset`. -/
theorem resetLeavesTheListedState : Obligations.ResetLeavesTheListedState := by
  unfold Obligations.ResetLeavesTheListedState
  exact ⟨rfl, load_nil, rfl, rfl, rfl, rfl, rfl, rfl, rfl⟩

end Sys2Proof.Machine
end

section
/-! PROOFS of the encoding family: the reserved `OP` values (spec 30_encoding.md R98) and the requests that
are another request's special case (R105). -/

namespace Sys2Proof.Machine

/-- A presented input is performed with the host's list already advanced. Spec 10_state.md R23. -/
theorem step_present {s : State} {input : PortInput} {later : List HostAction}
    (h : s.host = .present input :: later) :
    step s = presentInput input { s with host := later } := by
  simp only [step, h, performAction]

theorem presentInput_request {w : RequestWord} {text : List Byte} {config : DriverConfig} {i : Instr}
    (h : decodeRequest w text config = .ok i) (s : State) :
    presentInput (.request w text config) s = exec i s := by
  simp only [presentInput, decode, h]

/-! ## Reserved `OP` values -/

theorem exec_reservedOpAB (low : BitVec 13) (s : State) :
    exec (.reservedOpAB low) s = .refused .reservedOp := rfl

theorem exec_reservedOpCF (low : BitVec 14) (s : State) :
    exec (.reservedOpCF low) s = .refused .reservedOp := rfl

/-- An `OP` of 0xA or 0xB decodes to `RESERVED_OP_A_B`. -/
theorem decodeRequest_reservedOpAB {w : RequestWord} (h : (opField w).toNat = 0xA ∨ (opField w).toNat = 0xB)
    (text : List Byte) (config : DriverConfig) :
    decodeRequest w text config = .ok (.reservedOpAB (w.extractLsb' 0 13)) := by
  rcases h with h | h <;> simp only [decodeRequest, h]

theorem presentInput_reservedOp {w : RequestWord} (h : 0xA ≤ (opField w).toNat) (text : List Byte)
    (config : DriverConfig) (s : State) :
    presentInput (.request w text config) s = .refused .reservedOp := by
  rcases Nat.lt_or_ge (opField w).toNat 0xC with hlt | hge
  · have hAB : (opField w).toNat = 0xA ∨ (opField w).toNat = 0xB := by omega
    rw [presentInput_request (decodeRequest_reservedOpAB hAB text config), exec_reservedOpAB]
  · rw [presentInput_request (Laws.decodeRequest_high hge text config), exec_reservedOpCF]

/-- Settles O5: an `OP` of at least 0xA is below 0xC or not, each half decodes to one of the two reserved
instructions, and both are refused. -/
theorem reservedOpsRefused : Obligations.ReservedOpsRefused := by
  unfold Obligations.ReservedOpsRefused
  refine ⟨fun s w text config later hhost hop => ?_, exec_reservedOpAB, exec_reservedOpCF⟩
  rw [step_present hhost]
  exact presentInput_reservedOp hop text config _

/-! ## Requests that equal their expansion -/

theorem whenInit_congr {gate : Gate} {k k' : DriverConfig → State → Res State} {s : State}
    (h : ∀ cfg, k cfg s = k' cfg s) : whenInit gate k s = whenInit gate k' s := by
  unfold whenInit
  cases s.life with
  | init cfg => exact h cfg
  | uninit => rfl
  | deinit => rfl

theorem whenGrid_congr {gate : Gate} {g : BitVec 4} {k k' : GridIndex → State → Res State} {s : State}
    (h : ∀ grid, k grid s = k' grid s) : whenGrid gate g k s = whenGrid gate g k' s := by
  unfold whenGrid
  cases gridOfField g with
  | some grid => exact h grid
  | none => rfl

/-- With a digit that has a symbol, `WRITE_DIGIT` makes the checks of `WRITE_SEGMENTS` and the store of the
symbol's pattern. Spec 42_buffer_ops.md R161. -/
theorem exec_writeDigit_of_digitOperand {d : Byte} {sym : Symbol} (h : digitOperand d = some sym)
    (g : BitVec 4) (s : State) :
    exec (.writeDigit g d) s = exec (.writeSegments g (segPattern s.params.segLut sym)) s := by
  show execWriteDigit g d s = execWriteSegments g _ s
  unfold execWriteDigit execWriteSegments
  exact whenInit_congr fun _ => whenGrid_congr fun _ => by simp only [h]

/-- Spec 42_buffer_ops.md R164, R165: the blank pattern is 0x00. -/
theorem exec_clear (s : State) : exec .clear s = exec (.fill 0x00#8) s := rfl

/-- Settles O31: a digit up to 9 is the operand of its symbol, whatever the grid and the state. -/
theorem pseudoRequestsEqualTheirExpansion : Obligations.PseudoRequestsEqualTheirExpansion := by
  unfold Obligations.PseudoRequestsEqualTheirExpansion
  refine ⟨fun g d sym s hd hsym => ?_, exec_clear⟩
  have operand : digitOperand d = some sym := by rw [digitOperand, if_pos hd, hsym]
  exact exec_writeDigit_of_digitOperand operand g s

end Sys2Proof.Machine
end

section
/-! PROOFS of the datapath family: what the combinational ports present (spec 40_datapath.md R120 to R122),
and that a frame is unpacked to what was packed (R125). -/

namespace Sys2Proof.Machine

/-! ## The fields of a packed word -/

/-- Spec 30_encoding.md R89: the packed word is its three fields side by side. -/
theorem packWord_eq_append (cmd : CommandCode) (mask : GridMask) (seg : SegmentPattern) :
    packWord cmd mask seg = cmd ++ mask ++ seg := by
  apply BitVec.eq_of_getLsbD_eq
  intro i hi
  simp only [packWord, BitVec.getLsbD_or, BitVec.getLsbD_shiftLeft, BitVec.getLsbD_setWidth,
    BitVec.getLsbD_append]
  interval_cases i <;> simp

@[simp] theorem wordCmd_packWord (cmd : CommandCode) (mask : GridMask) (seg : SegmentPattern) :
    wordCmd (packWord cmd mask seg) = cmd := by
  rw [wordCmd, packWord_eq_append, BitVec.append_assoc]
  exact BitVec.extractLsb'_append_eq_left

@[simp] theorem wordMask_packWord (cmd : CommandCode) (mask : GridMask) (seg : SegmentPattern) :
    wordMask (packWord cmd mask seg) = mask := by
  rw [wordMask, packWord_eq_append, BitVec.extractLsb'_append_eq_of_le (by decide)]
  exact BitVec.extractLsb'_append_eq_right

@[simp] theorem wordSeg_packWord (cmd : CommandCode) (mask : GridMask) (seg : SegmentPattern) :
    wordSeg (packWord cmd mask seg) = seg := by
  rw [wordSeg, packWord_eq_append]
  exact BitVec.extractLsb'_append_eq_right

theorem toNat_packWord (cmd : CommandCode) (mask : GridMask) (seg : SegmentPattern) :
    (packWord cmd mask seg).toNat = cmd.toNat * 2 ^ 17 + mask.toNat * 2 ^ 8 + seg.toNat := by
  rw [packWord_eq_append, BitVec.toNat_append, BitVec.toNat_append,
    ← Nat.shiftLeft_add_eq_or_of_lt seg.isLt, ← Nat.shiftLeft_add_eq_or_of_lt mask.isLt,
    Nat.shiftLeft_eq, Nat.shiftLeft_eq]
  omega

/-! ## Framing and its inverse -/

theorem joinFrame_splitFrame (f : FrameValue) : joinFrame (splitFrame f) = f := by
  apply BitVec.eq_of_getLsbD_eq
  intro i hi
  interval_cases i <;> simp [joinFrame, splitFrame]

/-- Spec 40_datapath.md R123: the padding is on one side of the word, so the word is read back beside it. -/
theorem unframe_frameBytes (pad : PadPosition) (w : ControlWord) : unframe pad (frameBytes pad w) = w := by
  cases pad with
  | low =>
    simp only [unframe, frameBytes, joinFrame_splitFrame, frameValue]
    apply BitVec.eq_of_getLsbD_eq
    intro i hi
    interval_cases i <;> simp
  | high =>
    simp only [unframe, frameBytes, joinFrame_splitFrame, frameValue]
    rw [← BitVec.setWidth_eq_extractLsb' (by decide), BitVec.setWidth_setWidth_of_le w (by decide),
      BitVec.setWidth_eq]

theorem unframe_packFrame (pad : PadPosition) (cmd : CommandCode) (mask : GridMask) (seg : SegmentPattern) :
    unframe pad (packFrame pad cmd mask seg) = packWord cmd mask seg :=
  unframe_frameBytes pad _

/-! ## The class of a packed word -/

theorem classifyWord_packWord_gridMask (cmd : CommandCode) (g : GridIndex) (seg : SegmentPattern) :
    classifyWord (packWord cmd (gridMask g) seg) = .display cmd g seg := by
  simp [classifyWord, Laws.gridOfMask_gridMask]

theorem gridOfMask_zero : gridOfMask 0#9 = none := by decide

theorem classifyWord_packWord_zero (cmd : CommandCode) :
    classifyWord (packWord cmd 0#9 0#8) = .commandOnly cmd := by
  simp [classifyWord, gridOfMask_zero]

/-- Settles O17: unframing gives the packed word under either padding, and the class of a packed word is
read from its mask. -/
theorem packedFramesUnpack : Obligations.PackedFramesUnpack := by
  unfold Obligations.PackedFramesUnpack
  intro pad g seg cmd
  rw [unframe_packFrame, unframe_packFrame]
  exact ⟨classifyWord_packWord_gridMask 0#3 g seg, classifyWord_packWord_zero cmd⟩

/-! ## The combinational ports -/

theorem encodePort_eq (sym : Symbol) (s : State) :
    encodePort sym s = .next { s with portOut := .pattern (segPattern s.params.segLut sym) } := rfl

theorem exec_encodeReserved (sym : BitVec 4) (s : State) :
    exec (.encodeReserved sym) s = .refused .reservedSymbol := rfl

/-- Settles O8: each of the thirteen instructions is the encoder port at its symbol. -/
theorem encodePortGivesTheTableEntry : Obligations.EncodePortGivesTheTableEntry := by
  unfold Obligations.EncodePortGivesTheTableEntry
  intro s sym
  exact ⟨encodePort_eq .d0 s, encodePort_eq .d1 s, encodePort_eq .d2 s, encodePort_eq .d3 s,
    encodePort_eq .d4 s, encodePort_eq .d5 s, encodePort_eq .d6 s, encodePort_eq .d7 s,
    encodePort_eq .d8 s, encodePort_eq .d9 s, encodePort_eq .dot s, encodePort_eq .dash s,
    encodePort_eq .blank s, exec_encodeReserved sym s⟩

theorem selectGrid_in {g : BitVec 4} (h : g.toNat ≤ 8) : selectGrid g = some (1#9 <<< (8 - g.toNat)) := by
  have hlt : g.toNat < 9 := by omega
  simp [selectGrid, gridOfField, gridMask, hlt]

theorem selectGrid_out {g : BitVec 4} (h : 9 ≤ g.toNat) : selectGrid g = none := by
  have hge : ¬ g.toNat < 9 := by omega
  simp [selectGrid, gridOfField, hge]

theorem exec_select_some {g : BitVec 4} {m : GridMask} (h : selectGrid g = some m) (s : State) :
    exec (.select g) s = .next (s.present (.mask m)) := by
  show execSelect g s = _
  simp only [execSelect, h]

theorem exec_select_none {g : BitVec 4} (h : selectGrid g = none) (s : State) :
    exec (.select g) s = .next (s.present (.portStatus .invalidGrid)) := by
  show execSelect g s = _
  simp only [execSelect, h]

/-- Settles O10: the range check of R85 decides between the two outcomes. -/
theorem selectPortGivesOneHotMaskOrInvalidGrid : Obligations.SelectPortGivesOneHotMaskOrInvalidGrid := by
  unfold Obligations.SelectPortGivesOneHotMaskOrInvalidGrid
  intro g s
  exact ⟨fun h => exec_select_some (selectGrid_in h) s, fun h => exec_select_none (selectGrid_out h) s⟩

theorem exec_pack (cmd : CommandCode) (mask : GridMask) (seg : SegmentPattern) (s : State) :
    exec (.pack cmd mask seg) s = .next (s.present (.word (packWord cmd mask seg))) := rfl

/-- Settles O11: the number of the packed word is the sum of its shifted fields. -/
theorem packPortConcatenatesItsFields : Obligations.PackPortConcatenatesItsFields := by
  unfold Obligations.PackPortConcatenatesItsFields
  intro cmd mask seg s
  rw [exec_pack, ← toNat_packWord, BitVec.ofNat_toNat, BitVec.setWidth_eq]
  rfl

end Sys2Proof.Machine
end

section
/-! PROOFS of the transport family: no instruction reads `CHIP_OUT` (spec 41_transport.md R146). The
argument is a relation of two runs. It is stated for every relation of states that the operations keep and
that relates only states alike in all they read (`Unread`), so that another part of the state that is only
written needs no more than its own `Unread`. -/

namespace Sys2Proof.Machine

/-! ## Two runs that end alike -/

/-- Two outcomes of the same kind: a stop has the same reason, and two results are related. -/
inductive Alike {α : Type} (R : α → α → Prop) : Res α → Res α → Prop where
  | next {a b : α} (h : R a b) : Alike R (.next a) (.next b)
  | fault (r : Fault) : Alike R (.fault r) (.fault r)
  | refused (r : Refusal) : Alike R (.refused r) (.refused r)

theorem Alike.andThen {α β : Type} {R : α → α → Prop} {Q : β → β → Prop} {o o' : Res α}
    {k k' : α → Res β} (h : Alike R o o') (hk : ∀ a b, R a b → Alike Q (k a) (k' b)) :
    Alike Q (Machine.andThen o k) (Machine.andThen o' k') := by
  cases h with
  | next h => exact hk _ _ h
  | fault r => exact .fault r
  | refused r => exact .refused r

/-- From related states the operation ends alike. -/
def Respects (R : State → State → Prop) (f : State → Res State) : Prop :=
  ∀ ⦃s t : State⦄, R s t → Alike R (f s) (f t)

theorem Respects.andThen {R : State → State → Prop} {f k : State → Res State} (hf : Respects R f)
    (hk : Respects R k) : Respects R fun s => Machine.andThen (f s) k :=
  fun _ _ h => (hf h).andThen fun _ _ h => hk h

/-- `R` relates only states alike in the fields that instructions read, and every update that an
instruction makes keeps it. -/
structure Unread (R : State → State → Prop) : Prop where
  life {s t : State} : R s t → t.life = s.life
  buf {s t : State} : R s t → t.buf = s.buf
  latch {s t : State} : R s t → t.latch = s.latch
  txOwned {s t : State} : R s t → t.txOwned = s.txOwned
  params {s t : State} : R s t → t.params = s.params
  mutator {s t : State} : R s t → t.mutator = s.mutator
  afterTurn {s t : State} : R s t → R s.afterTurn t.afterTurn
  setCell {s t : State} (g : GridIndex) (v : Byte) : R s t → R (s.setCell g v) (t.setCell g v)
  setCur {s t : State} (cur : Option Nat) : R s t → R { s with cur := cur } { t with cur := cur }
  setLife {s t : State} (life : Life) : R s t → R { s with life := life } { t with life := life }
  startTurn {s t : State} (g : GridIndex) : R s t → R (s.startTurn g) (t.startTurn g)
  setPhase {s t : State} (ph : Phase) : R s t → R (s.setPhase ph) (t.setPhase ph)
  pulse {s t : State} (f : Frame) : R s t → R (s.pulse f) (t.pulse f)
  settle {s t : State} (us : U32) : R s t → R (s.settle us) (t.settle us)
  answer {s t : State} (st : Status) (rd : Option Byte) : R s t → R (s.answer st rd) (t.answer st rd)
  takeTransport {s t : State} : R s t → R s.takeTransport t.takeTransport
  releaseTransport {s t : State} : R s t → R s.releaseTransport t.releaseTransport
  present {s t : State} (out : PortOutput) : R s t → R (s.present out) (t.present out)

/-! ## The shared operations -/

/-- A point at which the mutator stores nothing is passed, whether or not it admits stores. -/
theorem mutatorTurn_no_store (gate : Gate) {s : State} (h : s.mutator.headD [] = []) :
    mutatorTurn gate s = .next s.afterTurn := by
  cases hm : s.mutator with
  | nil => rw [mutatorTurn_quiet gate hm, afterTurn_quiet hm]
  | cons ws later =>
    obtain rfl : ws = [] := by simpa [hm] using h
    simp [mutatorTurn, hm, concurrentStores, State.afterTurn]

section
variable {R : State → State → Prop} (hR : Unread R)
include hR

theorem Unread.storesAllowed_iff {s t : State} (h : R s t) (gate : Gate) :
    t.storesAllowed gate ↔ s.storesAllowed gate := by
  simp only [State.storesAllowed, hR.life h, hR.params h]

theorem Unread.respects_mutatorTurn (gate : Gate) : Respects R (mutatorTurn gate) := by
  intro s t h
  have hm := hR.mutator h
  by_cases allowed : s.storesAllowed gate
  · rw [mutatorTurn_allowed allowed, mutatorTurn_allowed ((hR.storesAllowed_iff h gate).2 allowed)]
    exact .next (hR.afterTurn h)
  · cases hs : s.mutator.headD [] with
    | nil =>
      rw [mutatorTurn_no_store gate hs, mutatorTurn_no_store gate (hm ▸ hs)]
      exact .next (hR.afterTurn h)
    | cons w ws =>
      obtain ⟨later, hs⟩ : ∃ later, s.mutator = (w :: ws) :: later := by
        cases hl : s.mutator <;> simp_all
      rw [mutatorTurn_barred hs allowed,
        mutatorTurn_barred (hm.trans hs) (mt (hR.storesAllowed_iff h gate).1 allowed)]
      exact .refused _

theorem Unread.alike_cellLoad (gate : Gate) (g : GridIndex) {s t : State} (h : R s t) :
    Alike (fun x y => x.1 = y.1 ∧ R x.2 y.2) (cellLoad gate g s) (cellLoad gate g t) :=
  (hR.respects_mutatorTurn gate h).andThen fun a b h => by
    rw [hR.buf h]
    cases a.buf.load g.val with
    | some v => exact .next ⟨rfl, h⟩
    | none => exact .refused _

theorem Unread.respects_cellStore (gate : Gate) (g : GridIndex) (v : Byte) :
    Respects R (cellStore gate g v) :=
  (hR.respects_mutatorTurn gate).andThen fun _ _ h => .next (hR.setCell g v h)

theorem Unread.respects_storeEach (gate : Gate) (v : Byte) (gs : List GridIndex) :
    Respects R (storeEach gate v gs) := by
  induction gs with
  | nil => exact fun _ _ h => .next h
  | cons g rest ih => exact (hR.respects_cellStore gate g v).andThen ih

theorem Unread.respects_transmit (f : Frame) : Respects R (transmit f) := by
  intro s t h
  simp only [transmit, hR.txOwned h, hR.latch h]
  split
  · exact .next (hR.pulse f h)
  · exact .fault _

/-- A frame whose layout is the parameter `FRAME_PAD_POSITION` of the state. -/
theorem Unread.respects_transmit_packFrame (cmd : CommandCode) (mask : GridMask) (seg : SegmentPattern) :
    Respects R fun s => transmit (packFrame s.params.framePad cmd mask seg) s := by
  intro s t h
  simp only [hR.params h]
  exact hR.respects_transmit _ h

theorem Unread.respects_sweepGrid (gate : Gate) (settleUs : U32) (g : GridIndex) :
    Respects R (sweepGrid gate settleUs g) := by
  intro s t h
  refine (hR.alike_cellLoad gate g (hR.startTurn g h)).andThen fun x y ⟨hv, hs⟩ => ?_
  rw [hR.params h, hv]
  exact (hR.respects_transmit _ (hR.setPhase .send hs)).andThen fun _ _ h => .next (hR.settle settleUs h)

theorem Unread.respects_sweepGrids (gate : Gate) (settleUs : U32) (gs : List GridIndex) :
    Respects R (sweepGrids gate settleUs gs) := by
  induction gs with
  | nil => exact fun _ _ h => .next h
  | cons g rest ih => exact (hR.respects_sweepGrid gate settleUs g).andThen ih

theorem Unread.respects_respond (gate : Gate) (st : Status) (rd : Option Byte) :
    Respects R (respond gate st rd) :=
  (hR.respects_mutatorTurn gate).andThen fun _ _ h => .next (hR.answer st rd h)

theorem Unread.respects_whenInit (gate : Gate) {k : DriverConfig → State → Res State}
    (hk : ∀ cfg, Respects R (k cfg)) :
    Respects R (whenInit gate k) := by
  intro s t h
  simp only [whenInit, hR.life h]
  cases s.life with
  | init cfg => exact hk cfg h
  | uninit => exact hR.respects_respond gate _ none h
  | deinit => exact hR.respects_respond gate _ none h

theorem Unread.respects_whenGrid (gate : Gate) (g : BitVec 4) {k : GridIndex → State → Res State}
    (hk : ∀ grid, Respects R (k grid)) : Respects R (whenGrid gate g k) := by
  intro s t h
  unfold whenGrid
  cases gridOfField g with
  | some grid => exact hk grid h
  | none => exact hR.respects_respond gate _ none h

theorem Unread.respects_renderText (text : List Byte) (cur : Nat) : Respects R (renderText text cur) := by
  induction text generalizing cur with
  | nil => exact fun _ _ h => .next (hR.setCur _ h)
  | cons c rest ih =>
    intro s t h
    have hcur := hR.setCur (some cur) h
    simp only [renderText]
    split
    · cases charClass c with
      | finish => exact .next hcur
      | glyph sym =>
        have hlut : t.params.segLut = s.params.segLut := congrArg Params.segLut (hR.params h)
        dsimp only
        rw [hlut]
        exact (hR.respects_cellStore .admits _ _).andThen (ih (cur + 1)) hcur
      | point =>
        cases previousGrid cur with
        | some g =>
          refine (hR.alike_cellLoad .admits g hcur).andThen fun x y ⟨hv, hs⟩ => ?_
          rw [hv]
          exact (hR.respects_cellStore .admits g _).andThen (ih cur) hs
        | none => exact ih cur hcur
      | ignored => exact ih cur hcur
    · exact .next hcur

/-! ## The instructions -/

theorem Unread.respects_applyConfig (c : DriverConfig) : Respects R (applyConfig c) := by
  intro s t h
  simp only [applyConfig, hR.params h]
  split
  · exact hR.respects_respond .bars _ none h
  · split
    · exact hR.respects_respond .bars _ none h
    · exact (hR.respects_storeEach .bars blankPattern allGrids (hR.takeTransport h)).andThen fun _ _ h =>
        hR.respects_respond .bars .ok none (hR.setLife _ h)

theorem Unread.respects_execInitialize (cfg : Option DriverConfig) : Respects R (execInitialize cfg) := by
  intro s t h
  simp only [execInitialize, hR.life h, hR.params h]
  cases s.life with
  | init _ => exact hR.respects_respond .bars .ok none h
  | uninit => exact hR.respects_applyConfig _ h
  | deinit => exact hR.respects_applyConfig _ h

theorem Unread.respects_execDeinitialize : Respects R execDeinitialize :=
  hR.respects_whenInit .bars fun cfg => (hR.respects_storeEach .bars blankPattern allGrids).andThen <|
    (hR.respects_sweepGrids .bars cfg.settleUs allGrids).andThen fun _ _ h =>
      hR.respects_respond .bars .ok none (hR.releaseTransport h)

theorem Unread.respects_execWriteSegments (g : BitVec 4) (p : Byte) : Respects R (execWriteSegments g p) :=
  hR.respects_whenInit .admits fun _ => hR.respects_whenGrid .admits g fun grid =>
    (hR.respects_cellStore .admits grid p).andThen (hR.respects_respond .admits .ok none)

theorem Unread.respects_execWriteDigit (g : BitVec 4) (d : Byte) : Respects R (execWriteDigit g d) := by
  refine hR.respects_whenInit .admits fun _ => hR.respects_whenGrid .admits g fun grid s t h => ?_
  cases digitOperand d with
  | some sym =>
    dsimp only
    rw [hR.params h]
    exact (hR.respects_cellStore .admits grid _).andThen (hR.respects_respond .admits .ok none) h
  | none => exact hR.respects_respond .admits _ none h

theorem Unread.respects_execWriteString (text : List Byte) : Respects R (execWriteString text) :=
  hR.respects_whenInit .admits fun _ => (hR.respects_storeEach .admits blankPattern allGrids).andThen <|
    (hR.respects_renderText text 0).andThen (hR.respects_respond .admits .ok none)

theorem Unread.respects_execFill (p : Byte) : Respects R (execFill p) :=
  hR.respects_whenInit .admits fun _ =>
    (hR.respects_storeEach .admits p allGrids).andThen (hR.respects_respond .admits .ok none)

theorem Unread.respects_execReadSegments (g : BitVec 4) : Respects R (execReadSegments g) :=
  hR.respects_whenInit .admits fun _ => hR.respects_whenGrid .admits g fun grid _ _ h =>
    (hR.alike_cellLoad .admits grid h).andThen fun x y ⟨hv, hs⟩ => by
      rw [hv]
      exact hR.respects_respond .admits .ok _ hs

theorem Unread.respects_execRefresh : Respects R execRefresh :=
  hR.respects_whenInit .admits fun cfg =>
    (hR.respects_sweepGrids .admits cfg.settleUs allGrids).andThen (hR.respects_respond .admits .ok none)

theorem Unread.respects_execSendCommand (c : Byte) : Respects R (execSendCommand c) := by
  refine hR.respects_whenInit .admits fun _ => ?_
  cases commandOperand c with
  | some cmd =>
    exact (hR.respects_transmit_packFrame cmd 0#9 0#8).andThen (hR.respects_respond .admits .ok none)
  | none => exact hR.respects_respond .admits _ none

theorem Unread.respects_encodePort (sym : Symbol) : Respects R (encodePort sym) := by
  intro s t h
  simp only [encodePort, hR.params h]
  exact .next (hR.present _ h)

theorem Unread.respects_execSelect (g : BitVec 4) : Respects R (execSelect g) := by
  intro s t h
  unfold execSelect
  cases selectGrid g with
  | some m => exact .next (hR.present _ h)
  | none => exact .next (hR.present _ h)

theorem Unread.respects_execFrame (w : ControlWord) : Respects R (execFrame w) := by
  intro s t h
  simp only [execFrame, hR.params h]
  exact .next (hR.present _ h)

/-- Every instruction ends alike from states that differ only in what none of them reads. -/
theorem Unread.respects_exec (i : Instr) : Respects R (exec i) := by
  cases i with
  | initializeBlock cfg => exact hR.respects_execInitialize cfg
  | deinitialize => exact hR.respects_execDeinitialize
  | writeSegments g p => exact hR.respects_execWriteSegments g p
  | writeDigit g d => exact hR.respects_execWriteDigit g d
  | writeString text => exact hR.respects_execWriteString text
  | clear => exact hR.respects_execFill blankPattern
  | fill p => exact hR.respects_execFill p
  | readSegments g => exact hR.respects_execReadSegments g
  | refresh => exact hR.respects_execRefresh
  | sendCommand c => exact hR.respects_execSendCommand c
  | reservedOpAB low => exact fun _ _ _ => .refused _
  | reservedOpCF low => exact fun _ _ _ => .refused _
  | frameDisplay g seg => exact hR.respects_transmit_packFrame 0#3 (gridMask g) seg
  | frameCmd cmd => exact hR.respects_transmit_packFrame cmd 0#9 0#8
  | encodeDigit0 => exact hR.respects_encodePort .d0
  | encodeDigit1 => exact hR.respects_encodePort .d1
  | encodeDigit2 => exact hR.respects_encodePort .d2
  | encodeDigit3 => exact hR.respects_encodePort .d3
  | encodeDigit4 => exact hR.respects_encodePort .d4
  | encodeDigit5 => exact hR.respects_encodePort .d5
  | encodeDigit6 => exact hR.respects_encodePort .d6
  | encodeDigit7 => exact hR.respects_encodePort .d7
  | encodeDigit8 => exact hR.respects_encodePort .d8
  | encodeDigit9 => exact hR.respects_encodePort .d9
  | encodeDot => exact hR.respects_encodePort .dot
  | encodeDash => exact hR.respects_encodePort .dash
  | encodeBlank => exact hR.respects_encodePort .blank
  | encodeReserved sym => exact fun _ _ _ => .refused _
  | select g => exact hR.respects_execSelect g
  | pack cmd mask seg => exact fun _ _ h => .next (hR.present _ h)
  | frame w => exact hR.respects_execFrame w

end

/-! ## `CHIP_OUT` -/

/-- The states differ at most in `CHIP_OUT`. -/
def EqButChipOut (s t : State) : Prop := ∃ w, t = { s with chipOut := w }

/-- A falling latch and `INITIALIZE` overwrite `CHIP_OUT`, each with a value that does not come from it;
every other update leaves it alone. -/
theorem eqButChipOut_unread : Unread EqButChipOut where
  life := by rintro s _ ⟨w, rfl⟩; rfl
  buf := by rintro s _ ⟨w, rfl⟩; rfl
  latch := by rintro s _ ⟨w, rfl⟩; rfl
  txOwned := by rintro s _ ⟨w, rfl⟩; rfl
  params := by rintro s _ ⟨w, rfl⟩; rfl
  mutator := by rintro s _ ⟨w, rfl⟩; rfl
  afterTurn := by rintro s _ ⟨w, rfl⟩; exact ⟨w, rfl⟩
  setCell g v := by rintro ⟨w, rfl⟩; exact ⟨w, rfl⟩
  setCur cur := by rintro ⟨w, rfl⟩; exact ⟨w, rfl⟩
  setLife life := by rintro ⟨w, rfl⟩; exact ⟨w, rfl⟩
  startTurn g := by rintro ⟨w, rfl⟩; exact ⟨w, rfl⟩
  setPhase ph := by rintro ⟨w, rfl⟩; exact ⟨w, rfl⟩
  pulse f := by rintro ⟨w, rfl⟩; exact ⟨_, rfl⟩
  settle us := by rintro ⟨w, rfl⟩; exact ⟨w, rfl⟩
  answer st rd := by rintro ⟨w, rfl⟩; exact ⟨w, rfl⟩
  takeTransport := by rintro s _ ⟨w, rfl⟩; exact ⟨_, rfl⟩
  releaseTransport := by rintro s _ ⟨w, rfl⟩; exact ⟨w, rfl⟩
  present out := by rintro ⟨w, rfl⟩; exact ⟨w, rfl⟩

/-- Settles O56: two runs from states that differ at most in `CHIP_OUT` end alike, the states they go on
with differing at most in it too. -/
theorem noInstructionReadsChipOut : Obligations.NoInstructionReadsChipOut := by
  unfold Obligations.NoInstructionReadsChipOut
  intro i s w
  have alike : Alike EqButChipOut (exec i s) (exec i { s with chipOut := w }) :=
    eqButChipOut_unread.respects_exec i ⟨w, rfl⟩
  generalize exec i s = o, exec i { s with chipOut := w } = o' at alike
  cases alike with
  | next h =>
    obtain ⟨w', rfl⟩ := h
    exact ⟨w', rfl⟩
  | fault r => rfl
  | refused r => rfl

end Sys2Proof.Machine
end

section
/-! PROOFS of the buffer family: what each request on the display buffer stores, returns and leaves
unchanged when the concurrent mutator stores nothing (spec 42_buffer_ops.md R160 to R166), and that a
request that fails has changed nothing but its answer (R168). -/

namespace Sys2Proof.Machine

/-! ## The checks that fail -/

theorem whenInit_not_quiet (gate : Gate) (k : DriverConfig → State → Res State) {s : State}
    (hm : s.mutator = []) (h : ∀ cfg, s.life ≠ .init cfg) :
    whenInit gate k s = .next (s.answer .notInitialized none) :=
  (whenInit_not gate k h).trans (respond_quiet gate .notInitialized none hm)

theorem whenGrid_out_quiet (gate : Gate) {g : BitVec 4} (k : GridIndex → State → Res State) {s : State}
    (hm : s.mutator = []) (h : 9 ≤ g.toNat) :
    whenGrid gate g k s = .next (s.answer .invalidGrid none) :=
  (whenGrid_out gate k s h).trans (respond_quiet gate .invalidGrid none hm)

/-! ## One cell -/

theorem exec_writeSegments_in {g : BitVec 4} (p : Byte) {s : State} {cfg : DriverConfig}
    (hm : s.mutator = []) (hl : s.life = .init cfg) (hg : g.toNat < 9) :
    exec (.writeSegments g p) s = .next ((s.setCell ⟨g.toNat, hg⟩ p).answer .ok none) := by
  show whenInit _ _ s = _
  rw [whenInit_init _ _ hl, whenGrid_in _ _ s hg, cellStore_quiet _ _ _ hm]
  exact respond_quiet .admits .ok none hm

/-- Settles O24: the three outcomes are those of the check of `LIFE` and the check of the grid, and past
both there is one store. -/
theorem writeSegmentsStoresThePattern : Obligations.WriteSegmentsStoresThePattern := by
  unfold Obligations.WriteSegmentsStoresThePattern
  intro g p s hm
  refine ⟨fun cfg hl hg => ?_, fun cfg hl hg => ?_, whenInit_not_quiet _ _ hm⟩
  · exact ⟨_, exec_writeSegments_in p hm hl (Nat.lt_succ_of_le hg), rfl,
      fun a => load_store s.buf g.toNat a p⟩
  · exact (whenInit_init _ _ hl).trans (whenGrid_out_quiet _ _ hm hg)

/-- Spec 30_encoding.md R80: the codes up to 0xC are symbols. -/
theorem symbolOfCode_isSome : ∀ {c : BitVec 4}, c.toNat ≤ 0xC → (symbolOfCode c).isSome = true := by
  decide

theorem digitOperand_eq_symbolOfCode {d : Byte} (h : d.toNat ≤ 9) :
    digitOperand d = symbolOfCode (d.setWidth 4) := if_pos h

theorem digitOperand_eq_none {d : Byte} (h : 10 ≤ d.toNat) : digitOperand d = none :=
  if_neg (Nat.not_le.2 h)

/-- Spec 30_encoding.md R82: every digit has an entry in `SEG_LUT`. -/
theorem exists_symbol_of_digit {d : Byte} (h : d.toNat ≤ 9) :
    ∃ sym, symbolOfCode (d.setWidth 4) = some sym := by
  refine Option.isSome_iff_exists.1 (symbolOfCode_isSome ?_)
  rw [BitVec.toNat_setWidth]
  omega

/-- The digit is checked after the grid. Spec 42_buffer_ops.md R161. -/
theorem exec_writeDigit_above_nine {g : BitVec 4} {d : Byte} {s : State} {cfg : DriverConfig}
    (hm : s.mutator = []) (hl : s.life = .init cfg) (hg : g.toNat < 9) (hd : 10 ≤ d.toNat) :
    exec (.writeDigit g d) s = .next (s.answer .invalidParam none) := by
  show whenInit _ _ s = _
  rw [whenInit_init _ _ hl, whenGrid_in _ _ s hg, digitOperand_eq_none hd]
  exact respond_quiet .admits .invalidParam none hm

/-- Settles O25: with a digit up to 9 the request is `WRITE_SEGMENTS` of the digit's table entry; else one
of its three checks fails. -/
theorem writeDigitStoresTheEncodedDigit : Obligations.WriteDigitStoresTheEncodedDigit := by
  unfold Obligations.WriteDigitStoresTheEncodedDigit
  intro g d s hm
  refine ⟨fun cfg hl hg hd => ?_, fun cfg hl hg => ?_, fun cfg hl hg hd => ?_, whenInit_not_quiet _ _ hm⟩
  · obtain ⟨sym, hsym⟩ := exists_symbol_of_digit hd
    have operand : digitOperand d = some sym := (digitOperand_eq_symbolOfCode hd).trans hsym
    have run := (exec_writeDigit_of_digitOperand operand g s).trans
      (exec_writeSegments_in _ hm hl (Nat.lt_succ_of_le hg))
    exact ⟨_, sym, run, hsym, rfl, fun a => load_store s.buf g.toNat a _⟩
  · exact (whenInit_init _ _ hl).trans (whenGrid_out_quiet _ _ hm hg)
  · exact exec_writeDigit_above_nine hm hl (Nat.lt_succ_of_le hg) hd

theorem exec_readSegments_in {g : BitVec 4} {v : Byte} {s : State} {cfg : DriverConfig}
    (hm : s.mutator = []) (hl : s.life = .init cfg) (hg : g.toNat < 9)
    (hv : s.buf.load g.toNat = some v) :
    exec (.readSegments g) s = .next (s.answer .ok (some v)) := by
  show whenInit _ _ s = _
  rw [whenInit_init _ _ hl, whenGrid_in _ _ s hg, cellLoad_quiet _ _ hm hv]
  exact respond_quiet .admits .ok (some v) hm

/-- Settles O27: past the checks of `LIFE` and of the grid there is one load. -/
theorem readSegmentsReturnsTheCell : Obligations.ReadSegmentsReturnsTheCell := by
  unfold Obligations.ReadSegmentsReturnsTheCell
  intro g s hm
  refine ⟨fun cfg v hl hg hv => ?_, fun cfg hl hg => ?_, whenInit_not_quiet _ _ hm⟩
  · exact exec_readSegments_in hm hl (Nat.lt_succ_of_le hg) hv
  · exact (whenInit_init _ _ hl).trans (whenGrid_out_quiet _ _ hm hg)

/-! ## Every cell -/

theorem exec_fill_init (p : Byte) {s : State} {cfg : DriverConfig} (hm : s.mutator = [])
    (hl : s.life = .init cfg) :
    exec (.fill p) s =
      .next (State.answer { s with buf := s.buf.storeAll p allGrids } .ok none) := by
  show execFill p s = _
  rw [execFill, whenInit_init _ _ hl, storeEach_quiet _ _ _ hm]
  exact respond_quiet .admits .ok none hm

theorem exec_fill_not_init (p : Byte) {s : State} (hm : s.mutator = [])
    (hl : ∀ cfg, s.life ≠ .init cfg) : exec (.fill p) s = .next (s.answer .notInitialized none) := by
  show execFill p s = _
  exact whenInit_not_quiet _ _ hm hl

/-- Settles O26: `CLEAR` is `FILL(0x00)`, and `FILL` stores its pattern to each of the nine grids. -/
theorem clearAndFillSetEveryCell : Obligations.ClearAndFillSetEveryCell := by
  unfold Obligations.ClearAndFillSetEveryCell
  intro p s hm
  rw [exec_clear]
  refine ⟨fun cfg hl => ⟨?_, ?_⟩, fun hl => ⟨exec_fill_not_init _ hm hl, exec_fill_not_init p hm hl⟩⟩
  · exact ⟨_, exec_fill_init 0x00#8 hm hl, rfl, load_storeAll_allGrids s.buf 0x00#8⟩
  · exact ⟨_, exec_fill_init p hm hl, rfl, load_storeAll_allGrids s.buf p⟩

/-! ## The patterns of a text -/

/-- `m` shows `pats` from grid 0 on and blanks beyond them, and reads like `base` outside the nine grids. -/
def Memory.Shows (m base : Memory) (pats : List Byte) : Prop :=
  ∀ a, m.load a = if a < 9 then some (pats[a]?.getD 0x00#8) else base.load a

/-- The cleared buffer shows the empty text. -/
theorem storeAll_shows_nil (m : Memory) : (m.storeAll blankPattern allGrids).Shows m [] :=
  load_storeAll_allGrids m blankPattern

/-- A store at the cursor shows one pattern more. -/
theorem Memory.Shows.store_length {m base : Memory} {pats : List Byte} (h : m.Shows base pats)
    (hlen : pats.length < 9) (p : Byte) : (m.store pats.length p).Shows base (pats ++ [p]) := by
  intro a
  rw [load_store, h a]
  rcases Nat.lt_trichotomy a pats.length with ha | rfl | ha
  · rw [if_neg ha.ne, List.getElem?_append_left ha]
  · simp [hlen]
  · have beyond : (pats ++ [p])[a]? = none := List.getElem?_eq_none (by simpa using ha)
    rw [if_neg ha.ne', beyond, List.getElem?_eq_none ha.le]

/-- A store at the grid before the cursor replaces the last pattern. -/
theorem Memory.Shows.store_last {m base : Memory} {pats : List Byte} {p : Byte}
    (h : m.Shows base (pats ++ [p])) (hlen : pats.length < 9) (q : Byte) :
    (m.store pats.length q).Shows base (pats ++ [q]) := by
  intro a
  rw [load_store, h a]
  rcases Nat.lt_trichotomy a pats.length with ha | rfl | ha
  · rw [if_neg ha.ne, List.getElem?_append_left ha, List.getElem?_append_left ha]
  · simp [hlen]
  · have beyond (r : Byte) : (pats ++ [r])[a]? = none := List.getElem?_eq_none (by simpa using ha)
    rw [if_neg ha.ne', beyond, beyond]

theorem Memory.Shows.load_last {m base : Memory} {pats : List Byte} {p : Byte}
    (h : m.Shows base (pats ++ [p])) (hlen : pats.length < 9) : m.load pats.length = some p := by
  rw [h, if_pos hlen]
  simp

/-- The class of a character and the conditions of the pseudocode of spec 42_buffer_ops.md R162 agree on
the characters that store a pattern. -/
theorem glyphPattern_of_glyph {c : Byte} {sym : Symbol} (h : charClass c = .glyph sym) (lut : SegLut) :
    glyphPattern lut c = some (segPattern lut sym) := by
  obtain ⟨h', -⟩ | ⟨-, -, hdigit | rfl | rfl⟩ | ⟨h', -⟩ | ⟨h', -⟩ := charClass_cases c
  · cases h.symm.trans h'
  · have hc : c = BitVec.ofNat 8 c.toNat := by simp
    generalize c.toNat = n at hdigit hc
    obtain ⟨hlow, hhigh⟩ := hdigit
    subst hc
    interval_cases n <;> cases h <;> rfl
  · cases h
    rfl
  · cases h
    rfl
  · cases h.symm.trans h'
  · cases h.symm.trans h'

theorem glyphPattern_eq_none {c : Byte}
    (h : ¬ ((0x30 ≤ c.toNat ∧ c.toNat ≤ 0x39) ∨ c = 0x2D#8 ∨ c = 0x20#8)) (lut : SegLut) :
    glyphPattern lut c = none := by
  obtain ⟨hdigit, hdash, hspace⟩ : _ ∧ _ ∧ _ := by simpa only [not_or] using h
  rw [glyphPattern, if_neg hdigit, if_neg hdash, if_neg hspace]

theorem textStep_of_glyph {c : Byte} {sym : Symbol} (h : charClass c = .glyph sym) (lut : SegLut)
    (pats : List Byte) : textStep lut c pats = pats ++ [segPattern lut sym] := by
  simp only [textStep, glyphPattern_of_glyph h]

theorem textStep_of_ignored {c : Byte} (h : charClass c = .ignored) (lut : SegLut) (pats : List Byte) :
    textStep lut c pats = pats := by
  obtain ⟨h', -⟩ | ⟨⟨sym, h'⟩, -⟩ | ⟨h', -⟩ | ⟨-, -, hpoint, hother⟩ := charClass_cases c
  · cases h.symm.trans h'
  · cases h.symm.trans h'
  · cases h.symm.trans h'
  · simp only [textStep, glyphPattern_eq_none hother, if_neg hpoint]

theorem textStep_point_nil (lut : SegLut) : textStep lut 0x2E#8 [] = [] := rfl

theorem textStep_point_concat (lut : SegLut) (pats : List Byte) (p : Byte) :
    textStep lut 0x2E#8 (pats ++ [p]) = pats ++ [p ||| dotPattern] := by
  have other : glyphPattern lut 0x2E#8 = none := rfl
  simp [textStep, other, dotPattern]

/-! ## The body of `WRITE_STRING` -/

theorem previousGrid_succ {cur : Nat} (h : cur < 9) : previousGrid (cur + 1) = some ⟨cur, h⟩ := by
  simp [previousGrid, h]

theorem renderText_glyph {c : Byte} {sym : Symbol} (hc : charClass c = .glyph sym) (rest : List Byte)
    {cur : Nat} (hcur : cur < 9) {s : State} (hm : s.mutator = []) :
    renderText (c :: rest) cur s = renderText rest (cur + 1)
      { s with buf := s.buf.store cur (segPattern s.params.segLut sym), cur := some cur } := by
  simp only [renderText, dif_pos hcur, hc]
  rw [cellStore_quiet _ _ _ (s := { s with cur := some cur }) hm]
  rfl

theorem renderText_ignored {c : Byte} (hc : charClass c = .ignored) (rest : List Byte) {cur : Nat}
    (hcur : cur < 9) (s : State) :
    renderText (c :: rest) cur s = renderText rest cur { s with cur := some cur } := by
  simp only [renderText, dif_pos hcur, hc]

/-- A point before any pattern lights nothing. Spec 42_buffer_ops.md R163. -/
theorem renderText_point_zero (rest : List Byte) (s : State) :
    renderText (0x2E#8 :: rest) 0 s = renderText rest 0 { s with cur := some 0 } := rfl

theorem renderText_point_succ (rest : List Byte) {cur : Nat} (hcur : cur + 1 < 9) {s : State}
    (hm : s.mutator = []) {p : Byte} (hp : s.buf.load cur = some p) :
    renderText (0x2E#8 :: rest) (cur + 1) s = renderText rest (cur + 1)
      { s with buf := s.buf.store cur (p ||| dotPattern), cur := some (cur + 1) } := by
  have point : charClass 0x2E#8 = .point := rfl
  simp only [renderText, dif_pos hcur, point, previousGrid_succ (Nat.lt_of_succ_lt hcur)]
  rw [cellLoad_quiet _ _ (s := { s with cur := some (cur + 1) }) hm hp, andThen_next,
    cellStore_quiet _ _ _ (s := { s with cur := some (cur + 1) }) hm]
  rfl

/-- One character of the text: what the buffer shows follows `textStep`, and the cursor follows the number
of patterns. Spec 42_buffer_ops.md R162, R163. -/
theorem renderText_cons {c : Byte} (hc : c ≠ 0x00#8) (rest : List Byte) {pats : List Byte}
    (hlen : pats.length < 9) {base : Memory} {s : State} (hm : s.mutator = []) (h : s.buf.Shows base pats) :
    ∃ buf, buf.Shows base (textStep s.params.segLut c pats) ∧
      renderText (c :: rest) pats.length s =
        renderText rest (textStep s.params.segLut c pats).length
          { s with buf := buf, cur := some pats.length } := by
  obtain ⟨-, hnul⟩ | ⟨⟨sym, hglyph⟩, -⟩ | ⟨-, rfl⟩ | ⟨hignored, -⟩ := charClass_cases c
  · exact absurd hnul hc
  · rw [textStep_of_glyph hglyph, List.length_append]
    exact ⟨_, h.store_length hlen _, renderText_glyph hglyph rest hlen hm⟩
  · obtain rfl | ⟨init, p, rfl⟩ := pats.eq_nil_or_concat'
    · exact ⟨s.buf, h, renderText_point_zero rest s⟩
    · have hsucc : init.length + 1 < 9 := by simpa using hlen
      have hinit := Nat.lt_of_succ_lt hsucc
      rw [textStep_point_concat, List.length_append, List.length_append]
      exact ⟨_, h.store_last hinit _, renderText_point_succ rest hsucc hm (h.load_last hinit)⟩
  · rw [textStep_of_ignored hignored]
    exact ⟨s.buf, h, renderText_ignored hignored rest hlen s⟩

theorem length_textStep_le (lut : SegLut) (c : Byte) (pats : List Byte) :
    (textStep lut c pats).length ≤ pats.length + 1 := by
  unfold textStep
  split
  · simp
  · split
    · obtain rfl | ⟨init, p, rfl⟩ := pats.eq_nil_or_concat' <;> simp
    · exact Nat.le_succ _

/-- A NUL ends the text. Spec 42_buffer_ops.md R162. -/
theorem renderText_nul (rest : List Byte) (cur : Nat) (s : State) :
    renderText (0x00#8 :: rest) cur s = .next { s with cur := some cur } := by
  have nul : charClass 0x00#8 = .finish := rfl
  by_cases h : cur < 9
  · simp only [renderText, dif_pos h, nul]
  · simp only [renderText, dif_neg h]

theorem renderText_full (text : List Byte) (s : State) :
    renderText text 9 s = .next { s with cur := some 9 } := by
  cases text <;> rfl

/-- From a buffer that shows `pats` with the cursor at their end, the body of `WRITE_STRING` ends with the
patterns of the whole text, having changed nothing but the buffer and the cursor. -/
theorem renderText_quiet (text : List Byte) {pats : List Byte} (hlen : pats.length ≤ 9) {base : Memory}
    {s : State} (hm : s.mutator = []) (h : s.buf.Shows base pats) :
    ∃ buf cur, renderText text pats.length s = .next { s with buf := buf, cur := cur } ∧
      buf.Shows base (textPatterns s.params.segLut text pats) := by
  induction text generalizing pats s with
  | nil => exact ⟨s.buf, some pats.length, rfl, h⟩
  | cons c rest ih =>
    by_cases hend : pats.length = 9 ∨ c = 0x00#8
    · rw [textPatterns, if_pos hend]
      refine ⟨s.buf, some pats.length, ?_, h⟩
      rcases hend with hfull | rfl
      · rw [hfull, renderText_full]
      · rw [renderText_nul]
    · obtain ⟨hnotFull, hc⟩ := not_or.1 hend
      rw [textPatterns, if_neg hend]
      have hlt : pats.length < 9 := by omega
      obtain ⟨buf, hbuf, hstep⟩ := renderText_cons hc rest hlt hm h
      rw [hstep]
      exact ih ((length_textStep_le _ c pats).trans hlt) hm hbuf

theorem exec_writeString_init (text : List Byte) {s : State} {cfg : DriverConfig} (hm : s.mutator = [])
    (hl : s.life = .init cfg) :
    ∃ buf, exec (.writeString text) s = .next (State.answer { s with buf := buf } .ok none) ∧
      buf.Shows s.buf (textPatterns s.params.segLut text []) := by
  have clear := storeEach_quiet .admits blankPattern allGrids hm
  obtain ⟨buf, cur, render, hshows⟩ := renderText_quiet text (pats := []) (Nat.zero_le 9)
    (s := { s with buf := s.buf.storeAll blankPattern allGrids }) hm (storeAll_shows_nil s.buf)
  rw [List.length_nil] at render
  refine ⟨buf, ?_, hshows⟩
  show execWriteString text s = _
  rw [execWriteString, whenInit_init _ _ hl, clear, andThen_next, render]
  exact respond_quiet .admits .ok none hm

theorem exec_writeString_not_init (text : List Byte) {s : State} (hm : s.mutator = [])
    (hl : ∀ cfg, s.life ≠ .init cfg) :
    exec (.writeString text) s = .next (s.answer .notInitialized none) := by
  show execWriteString text s = _
  exact whenInit_not_quiet _ _ hm hl

/-- Settles O28, by induction on the text: what the buffer shows follows `textStep` character by
character, from the cleared buffer on. -/
theorem writeStringRendersTheText : Obligations.WriteStringRendersTheText := by
  unfold Obligations.WriteStringRendersTheText
  intro text s hm
  refine ⟨fun cfg hl => ?_, exec_writeString_not_init text hm⟩
  obtain ⟨buf, hrun, hshows⟩ := exec_writeString_init text hm hl
  exact ⟨_, hrun, rfl, hshows⟩

/-! ## Requests that fail -/

/-- Every result of `o` answers `OK`. -/
def AnswersOk (o : Res State) : Prop := ∀ t, o = .next t → t.status = some .ok

/-- Every result of `o` answers `OK` or is `s` with an answer and no other change. -/
def OkOrOnlyAnswered (s : State) (o : Res State) : Prop :=
  ∀ t, o = .next t → t.status = some .ok ∨ ∃ st rd, t = s.answer st rd

theorem AnswersOk.okOrOnlyAnswered {o : Res State} (h : AnswersOk o) (s : State) : OkOrOnlyAnswered s o :=
  fun t ht => .inl (h t ht)

theorem answersOk_respond (gate : Gate) (rd : Option Byte) (s : State) :
    AnswersOk (respond gate .ok rd s) := by
  intro t ht
  rw [respond_next ht]
  rfl

theorem answersOk_andThen {α : Type} (o : Res α) {k : α → Res State} (h : ∀ a, AnswersOk (k a)) :
    AnswersOk (andThen o k) := by
  intro t ht
  obtain ⟨a, -, hk⟩ := andThen_eq_next.1 ht
  exact h a t hk

theorem answersOk_andThen_respond (gate : Gate) (o : Res State) :
    AnswersOk (andThen o (respond gate .ok none)) :=
  answersOk_andThen o (answersOk_respond gate none)

section
variable {s : State} (hm : s.mutator = [])
include hm

theorem respond_okOrOnlyAnswered (gate : Gate) (st : Status) (rd : Option Byte) :
    OkOrOnlyAnswered s (respond gate st rd s) := by
  intro t ht
  rw [respond_quiet gate st rd hm] at ht
  exact .inr ⟨st, rd, (Host.Outcome.next.inj ht).symm⟩

theorem whenInit_okOrOnlyAnswered (gate : Gate) {k : DriverConfig → State → Res State}
    (h : ∀ cfg, OkOrOnlyAnswered s (k cfg s)) : OkOrOnlyAnswered s (whenInit gate k s) := by
  unfold whenInit
  split
  · exact h _
  · exact respond_okOrOnlyAnswered hm gate .notInitialized none
  · exact respond_okOrOnlyAnswered hm gate .notInitialized none

theorem whenGrid_okOrOnlyAnswered (gate : Gate) (g : BitVec 4) {k : GridIndex → State → Res State}
    (h : ∀ grid, OkOrOnlyAnswered s (k grid s)) : OkOrOnlyAnswered s (whenGrid gate g k s) := by
  unfold whenGrid
  split
  · exact h _
  · exact respond_okOrOnlyAnswered hm gate .invalidGrid none

theorem applyConfig_okOrOnlyAnswered (c : DriverConfig) : OkOrOnlyAnswered s (applyConfig c s) := by
  unfold applyConfig
  split
  · exact respond_okOrOnlyAnswered hm .bars .invalidParam none
  · split
    · exact respond_okOrOnlyAnswered hm .bars .hardwareError none
    · exact (answersOk_andThen _ fun _ => answersOk_respond .bars none _).okOrOnlyAnswered s

theorem execInitialize_okOrOnlyAnswered (cfg : Option DriverConfig) :
    OkOrOnlyAnswered s (execInitialize cfg s) := by
  unfold execInitialize
  split
  · exact respond_okOrOnlyAnswered hm .bars .ok none
  · exact applyConfig_okOrOnlyAnswered hm _
  · exact applyConfig_okOrOnlyAnswered hm _

theorem execDeinitialize_okOrOnlyAnswered : OkOrOnlyAnswered s (execDeinitialize s) :=
  whenInit_okOrOnlyAnswered hm _ fun _ =>
    (answersOk_andThen _ fun _ => answersOk_andThen _ fun _ => answersOk_respond .bars none _).okOrOnlyAnswered s

theorem execWriteSegments_okOrOnlyAnswered (g : BitVec 4) (p : Byte) :
    OkOrOnlyAnswered s (execWriteSegments g p s) :=
  whenInit_okOrOnlyAnswered hm _ fun _ => whenGrid_okOrOnlyAnswered hm _ g fun _ =>
    (answersOk_andThen_respond .admits _).okOrOnlyAnswered s

theorem execWriteDigit_okOrOnlyAnswered (g : BitVec 4) (d : Byte) :
    OkOrOnlyAnswered s (execWriteDigit g d s) := by
  refine whenInit_okOrOnlyAnswered hm _ fun _ => whenGrid_okOrOnlyAnswered hm _ g fun _ => ?_
  split
  · exact (answersOk_andThen_respond .admits _).okOrOnlyAnswered s
  · exact respond_okOrOnlyAnswered hm .admits .invalidParam none

theorem execWriteString_okOrOnlyAnswered (text : List Byte) :
    OkOrOnlyAnswered s (execWriteString text s) :=
  whenInit_okOrOnlyAnswered hm _ fun _ =>
    (answersOk_andThen _ fun _ => answersOk_andThen_respond .admits _).okOrOnlyAnswered s

theorem execFill_okOrOnlyAnswered (p : Byte) : OkOrOnlyAnswered s (execFill p s) :=
  whenInit_okOrOnlyAnswered hm _ fun _ => (answersOk_andThen_respond .admits _).okOrOnlyAnswered s

theorem execReadSegments_okOrOnlyAnswered (g : BitVec 4) : OkOrOnlyAnswered s (execReadSegments g s) :=
  whenInit_okOrOnlyAnswered hm _ fun _ => whenGrid_okOrOnlyAnswered hm _ g fun _ =>
    (answersOk_andThen _ fun _ => answersOk_respond .admits _ _).okOrOnlyAnswered s

theorem execRefresh_okOrOnlyAnswered : OkOrOnlyAnswered s (execRefresh s) :=
  whenInit_okOrOnlyAnswered hm _ fun _ => (answersOk_andThen_respond .admits _).okOrOnlyAnswered s

theorem execSendCommand_okOrOnlyAnswered (c : Byte) : OkOrOnlyAnswered s (execSendCommand c s) := by
  refine whenInit_okOrOnlyAnswered hm _ fun _ => ?_
  split
  · exact (answersOk_andThen_respond .admits _).okOrOnlyAnswered s
  · exact respond_okOrOnlyAnswered hm .admits .invalidParam none

/-- Spec 60_exceptions.md R265: a check that fails comes before any change. -/
theorem exec_okOrOnlyAnswered {i : Instr} (hi : isRequest i = true) : OkOrOnlyAnswered s (exec i s) := by
  cases i with
  | initializeBlock cfg => exact execInitialize_okOrOnlyAnswered hm cfg
  | deinitialize => exact execDeinitialize_okOrOnlyAnswered hm
  | writeSegments g p => exact execWriteSegments_okOrOnlyAnswered hm g p
  | writeDigit g d => exact execWriteDigit_okOrOnlyAnswered hm g d
  | writeString text => exact execWriteString_okOrOnlyAnswered hm text
  | clear => exact execFill_okOrOnlyAnswered hm 0x00#8
  | fill p => exact execFill_okOrOnlyAnswered hm p
  | readSegments g => exact execReadSegments_okOrOnlyAnswered hm g
  | refresh => exact execRefresh_okOrOnlyAnswered hm
  | sendCommand c => exact execSendCommand_okOrOnlyAnswered hm c
  | _ => cases hi

end

/-- Settles O32: in each of the ten requests a failing answer is given before anything else is changed. -/
theorem failedRequestsChangeNothing : Obligations.FailedRequestsChangeNothing := by
  unfold Obligations.FailedRequestsChangeNothing
  intro i s t r hi hm hrun hr hfail
  obtain hok | ⟨st, rd, rfl⟩ := exec_okOrOnlyAnswered hm hi t hrun
  · have status : t.status = some r.status := by rw [State.status, hr, Option.map_some]
    exact absurd (Option.some.inj (status.symm.trans hok)) hfail
  · obtain rfl : (⟨st, rd⟩ : Response) = r := Option.some.inj hr
    rfl

end Sys2Proof.Machine
end

section
/-! PROOFS of the refresh family: what `SEND_COMMAND` puts on the link when the concurrent mutator stores
nothing (spec 43_refresh.md R201). -/

namespace Sys2Proof.Machine

theorem commandOperand_eq_setWidth {c : Byte} (h : c.toNat ≤ 7) : commandOperand c = some (c.setWidth 3) :=
  if_pos h

theorem commandOperand_eq_none {c : Byte} (h : 8 ≤ c.toNat) : commandOperand c = none :=
  if_neg (Nat.not_le.2 h)

/-- From a low latch, all a packed frame leaves behind is its six events, its word on the chip and the
phase. Spec 41_transport.md R140, R142. -/
theorem pulse_packFrame_of_low (cmd : CommandCode) (mask : GridMask) (seg : SegmentPattern) {s : State}
    (hlow : s.latch = .low) :
    s.pulse (packFrame s.params.framePad cmd mask seg) =
      { s with
        trace := s.trace ++ frameEvents (packFrame s.params.framePad cmd mask seg)
        chipOut := packWord cmd mask seg
        phase := s.scan.map fun _ => .latchLo } := by
  simp only [pulse_eq, unframe_packFrame, frameEvents, latchHoldUs, hlow]

/-- The code passes its check, and between the check and the answer there is one pulse and no wait. -/
theorem exec_sendCommand_init {c : Byte} {s : State} {cfg : DriverConfig} (hm : s.mutator = [])
    (hl : s.life = .init cfg) (hc : c.toNat ≤ 7) (ho : s.txOwned = true) (hlow : s.latch = .low) :
    exec (.sendCommand c) s =
      .next ((s.pulse (packFrame s.params.framePad (c.setWidth 3) 0#9 0#8)).answer .ok none) := by
  show execSendCommand c s = _
  rw [execSendCommand, whenInit_init _ _ hl, commandOperand_eq_setWidth hc]
  dsimp only
  rw [transmit_ready _ ho hlow]
  exact respond_quiet .admits .ok none hm

theorem exec_sendCommand_above_seven {c : Byte} {s : State} {cfg : DriverConfig} (hm : s.mutator = [])
    (hl : s.life = .init cfg) (hc : 8 ≤ c.toNat) :
    exec (.sendCommand c) s = .next (s.answer .invalidParam none) := by
  show execSendCommand c s = _
  rw [execSendCommand, whenInit_init _ _ hl, commandOperand_eq_none hc]
  exact respond_quiet .admits .invalidParam none hm

theorem exec_sendCommand_not_init (c : Byte) {s : State} (hm : s.mutator = [])
    (hl : ∀ cfg, s.life ≠ .init cfg) :
    exec (.sendCommand c) s = .next (s.answer .notInitialized none) := by
  show execSendCommand c s = _
  exact whenInit_not_quiet _ _ hm hl

/-- Settles O40: a code that passes its check costs one pulse from a low latch; the answer drops the phase
the pulse left. Outside `INIT` and above 7 a check fails. -/
theorem sendCommandSendsOneFrame : Obligations.SendCommandSendsOneFrame := by
  unfold Obligations.SendCommandSendsOneFrame
  intro c s hm
  refine ⟨fun cfg hl hc ho hlow => ?_, fun cfg hl hc => ?_, exec_sendCommand_not_init c hm⟩
  · rw [exec_sendCommand_init hm hl hc ho hlow, pulse_packFrame_of_low _ _ _ hlow]
    rfl
  · exact exec_sendCommand_above_seven hm hl hc

end Sys2Proof.Machine
end

section
/-! PROOFS of the lifecycle family: what `INITIALIZE` leaves in `INIT` (spec 44_lifecycle.md R232), and the
blank sweep and the release of `DEINITIALIZE` (R231), when the concurrent mutator stores nothing. -/

namespace Sys2Proof.Machine

/-! ## `INITIALIZE` in `INIT` -/

/-- In `INIT` the configuration is not examined. Spec 44_lifecycle.md R230. -/
theorem exec_initializeBlock_init (arg : Option DriverConfig) {s : State} {cfg : DriverConfig}
    (hl : s.life = .init cfg) : exec (.initializeBlock arg) s = respond .bars .ok none s := by
  show execInitialize arg s = _
  simp only [execInitialize, hl]

/-- Settles O20: in `INIT` the request is its answer alone. -/
theorem initializeIsIdempotent : Obligations.InitializeIsIdempotent := by
  unfold Obligations.InitializeIsIdempotent
  intro arg cfg s hm hl
  exact (exec_initializeBlock_init arg hl).trans (respond_quiet .bars .ok none hm)

/-! ## A sweep with no concurrent store -/

/-- One grid's turn: the sampled pattern goes to the chip with the seven events of the turn, and the latch
is low again for the next one. Spec 43_refresh.md R200. -/
theorem sweepGrid_quiet (gate : Gate) (settleUs : U32) {g : GridIndex} {p : Byte} {s : State}
    (hm : s.mutator = []) (ho : s.txOwned = true) (hlow : s.latch = .low)
    (hp : s.buf.load g.val = some p) :
    sweepGrid gate settleUs g s = .next { s with
      scan := some g
      phase := some .settle
      trace := s.trace ++ turnEvents s.params.framePad settleUs g p
      chipOut := packWord 0#3 (gridMask g) p } := by
  have sampled : cellLoad gate g (s.startTurn g) = .next (p, s.startTurn g) :=
    cellLoad_quiet gate g (s := s.startTurn g) hm hp
  have sent := transmit_ready (packFrame s.params.framePad 0#3 (gridMask g) p)
    (s := (s.startTurn g).setPhase .send) ho hlow
  have pulsed := pulse_packFrame_of_low 0#3 (gridMask g) p (s := (s.startTurn g).setPhase .send) hlow
  simp only [setPhase_params, startTurn_params] at pulsed
  simp only [sweepGrid, sampled, andThen_next, sent, pulsed]
  refine congrArg Host.Outcome.next ?_
  ext <;> simp [turnEvents]

/-- The turns of grids up to a last one `g`: their events in order, and the word of `g` on the chip. -/
theorem sweepGrids_quiet (gate : Gate) (settleUs : U32) (pats : GridIndex → Byte) (gs : List GridIndex)
    (g : GridIndex) {s : State} (hm : s.mutator = []) (ho : s.txOwned = true) (hlow : s.latch = .low)
    (hp : ∀ x : GridIndex, s.buf.load x.val = some (pats x)) :
    sweepGrids gate settleUs (gs ++ [g]) s = .next { s with
      scan := some g
      phase := some .settle
      trace := s.trace ++ (gs ++ [g]).flatMap fun x => turnEvents s.params.framePad settleUs x (pats x)
      chipOut := packWord 0#3 (gridMask g) (pats g) } := by
  induction gs generalizing s with
  | nil => simp [sweepGrids, sweepGrid_quiet gate settleUs hm ho hlow (hp g)]
  | cons x gs ih =>
    rw [List.cons_append, sweepGrids, sweepGrid_quiet gate settleUs hm ho hlow (hp x), andThen_next]
    refine (ih ?_ ?_ ?_ ?_).trans ?_
    exacts [hm, ho, hlow, hp, by simp]

/-- A sweep of a buffer that reads as `pats`. Spec 43_refresh.md R200, R202. -/
theorem sweep_quiet (gate : Gate) (settleUs : U32) {pats : GridIndex → Byte} {s : State}
    (hm : s.mutator = []) (ho : s.txOwned = true) (hlow : s.latch = .low)
    (hp : ∀ g : GridIndex, s.buf.load g.val = some (pats g)) :
    sweep gate settleUs s = .next { s with
      scan := some 8
      phase := some .settle
      trace := s.trace ++ sweepEvents s.params.framePad settleUs pats
      chipOut := packWord 0#3 0x001#9 (pats 8) } :=
  sweepGrids_quiet gate settleUs pats [0, 1, 2, 3, 4, 5, 6, 7] 8 hm ho hlow hp

/-! ## `DEINITIALIZE` -/

/-- After a store to every grid, every grid reads as the byte. -/
theorem load_storeAll_allGrids_grid (m : Memory) (v : Byte) (g : GridIndex) :
    (m.storeAll v allGrids).load g.val = some v := by
  rw [load_storeAll_allGrids, if_pos g.isLt]

/-- In `INIT`: the clear makes every sampled pattern blank, and the release drops the cleared buffer. -/
theorem exec_deinitialize_init {s : State} {cfg : DriverConfig} (hm : s.mutator = [])
    (hl : s.life = .init cfg) (ho : s.txOwned = true) (hlow : s.latch = .low) :
    exec .deinitialize s = .next (State.answer (State.releaseTransport { s with
      trace := s.trace ++ sweepEvents s.params.framePad cfg.settleUs fun _ => blankPattern
      chipOut := packWord 0#3 0x001#9 blankPattern }) .ok none) := by
  have swept := sweep_quiet .bars cfg.settleUs (s := { s with buf := s.buf.storeAll blankPattern allGrids })
    hm ho hlow (load_storeAll_allGrids_grid s.buf blankPattern)
  show execDeinitialize s = _
  rw [execDeinitialize, whenInit_init _ _ hl, storeEach_quiet _ _ _ hm, andThen_next, swept, andThen_next]
  exact respond_quiet .bars .ok none hm

theorem exec_deinitialize_not_init {s : State} (hm : s.mutator = []) (hl : ∀ cfg, s.life ≠ .init cfg) :
    exec .deinitialize s = .next (s.answer .notInitialized none) := by
  show execDeinitialize s = _
  exact whenInit_not_quiet _ _ hm hl

/-- Settles O21: in `INIT` the request is a clear, a sweep of blank patterns and the release; elsewhere the
check of `LIFE` fails. -/
theorem deinitializeBlanksAndReleases : Obligations.DeinitializeBlanksAndReleases := by
  unfold Obligations.DeinitializeBlanksAndReleases
  intro s hm
  exact ⟨fun cfg hl ho hlow => exec_deinitialize_init hm hl ho hlow, exec_deinitialize_not_init hm⟩

end Sys2Proof.Machine
end

section
/-! PROOFS of the exceptions family: outside `INIT` every request but `INITIALIZE` fails its first check
(spec 60_exceptions.md R262), and no answer is the reserved `INVALID_SEGMENT` (R264). -/

namespace Sys2Proof.Machine

/-! ## The check of `LIFE` -/

/-- The check of `LIFE` stands before all else in every request but `INITIALIZE`. Spec 60_exceptions.md
R262. -/
theorem exec_eq_whenInit {i : Instr} (hi : isRequest i = true) (hne : ∀ arg, i ≠ .initializeBlock arg) :
    ∃ gate k, exec i = whenInit gate k := by
  cases i with
  | initializeBlock cfg => exact absurd rfl (hne cfg)
  | deinitialize => exact ⟨.bars, _, rfl⟩
  | writeSegments g p => exact ⟨.admits, _, rfl⟩
  | writeDigit g d => exact ⟨.admits, _, rfl⟩
  | writeString text => exact ⟨.admits, _, rfl⟩
  | clear => exact ⟨.admits, _, rfl⟩
  | fill p => exact ⟨.admits, _, rfl⟩
  | readSegments g => exact ⟨.admits, _, rfl⟩
  | refresh => exact ⟨.admits, _, rfl⟩
  | sendCommand c => exact ⟨.admits, _, rfl⟩
  | _ => cases hi

/-- Settles O22: the check of `LIFE` fails before anything is done, and the answer is all that is left. -/
theorem requestsNeedInit : Obligations.RequestsNeedInit := by
  unfold Obligations.RequestsNeedInit
  intro i s hi hne hm hl
  obtain ⟨gate, k, hexec⟩ := exec_eq_whenInit hi hne
  rw [hexec]
  exact whenInit_not_quiet gate k hm hl

/-! ## `INVALID_SEGMENT` -/

/-- No result of `o` answers `INVALID_SEGMENT`. -/
def NeverInvalidSegment (o : Res State) : Prop := ∀ t, o = .next t → t.status ≠ some .invalidSegment

theorem AnswersOk.neverInvalidSegment {o : Res State} (h : AnswersOk o) : NeverInvalidSegment o := by
  intro t ht
  rw [h t ht]
  decide

theorem respond_neverInvalidSegment (gate : Gate) {st : Status} (hst : st ≠ .invalidSegment)
    (rd : Option Byte) (s : State) : NeverInvalidSegment (respond gate st rd s) := by
  intro t ht hinv
  rw [respond_next ht] at hinv
  exact hst (Option.some.inj hinv)

theorem whenInit_neverInvalidSegment (gate : Gate) {k : DriverConfig → State → Res State} {s : State}
    (h : ∀ cfg, NeverInvalidSegment (k cfg s)) : NeverInvalidSegment (whenInit gate k s) := by
  unfold whenInit
  split
  · exact h _
  · exact respond_neverInvalidSegment gate (by decide) none s
  · exact respond_neverInvalidSegment gate (by decide) none s

theorem whenGrid_neverInvalidSegment (gate : Gate) (g : BitVec 4) {k : GridIndex → State → Res State}
    {s : State} (h : ∀ grid, NeverInvalidSegment (k grid s)) :
    NeverInvalidSegment (whenGrid gate g k s) := by
  unfold whenGrid
  split
  · exact h _
  · exact respond_neverInvalidSegment gate (by decide) none s

theorem applyConfig_neverInvalidSegment (c : DriverConfig) (s : State) :
    NeverInvalidSegment (applyConfig c s) := by
  unfold applyConfig
  split
  · exact respond_neverInvalidSegment .bars (by decide) none s
  · split
    · exact respond_neverInvalidSegment .bars (by decide) none s
    · exact (answersOk_andThen _ fun _ => answersOk_respond .bars none _).neverInvalidSegment

theorem execInitialize_neverInvalidSegment (cfg : Option DriverConfig) (s : State) :
    NeverInvalidSegment (execInitialize cfg s) := by
  unfold execInitialize
  split
  · exact respond_neverInvalidSegment .bars (by decide) none s
  · exact applyConfig_neverInvalidSegment _ s
  · exact applyConfig_neverInvalidSegment _ s

theorem execDeinitialize_neverInvalidSegment (s : State) : NeverInvalidSegment (execDeinitialize s) :=
  whenInit_neverInvalidSegment _ fun _ =>
    (answersOk_andThen _ fun _ => answersOk_andThen _ fun _ =>
      answersOk_respond .bars none _).neverInvalidSegment

theorem execWriteSegments_neverInvalidSegment (g : BitVec 4) (p : Byte) (s : State) :
    NeverInvalidSegment (execWriteSegments g p s) :=
  whenInit_neverInvalidSegment _ fun _ => whenGrid_neverInvalidSegment _ g fun _ =>
    (answersOk_andThen_respond .admits _).neverInvalidSegment

theorem execWriteDigit_neverInvalidSegment (g : BitVec 4) (d : Byte) (s : State) :
    NeverInvalidSegment (execWriteDigit g d s) := by
  refine whenInit_neverInvalidSegment _ fun _ => whenGrid_neverInvalidSegment _ g fun _ => ?_
  split
  · exact (answersOk_andThen_respond .admits _).neverInvalidSegment
  · exact respond_neverInvalidSegment .admits (by decide) none _

theorem execWriteString_neverInvalidSegment (text : List Byte) (s : State) :
    NeverInvalidSegment (execWriteString text s) :=
  whenInit_neverInvalidSegment _ fun _ =>
    (answersOk_andThen _ fun _ => answersOk_andThen_respond .admits _).neverInvalidSegment

theorem execFill_neverInvalidSegment (p : Byte) (s : State) : NeverInvalidSegment (execFill p s) :=
  whenInit_neverInvalidSegment _ fun _ => (answersOk_andThen_respond .admits _).neverInvalidSegment

theorem execReadSegments_neverInvalidSegment (g : BitVec 4) (s : State) :
    NeverInvalidSegment (execReadSegments g s) :=
  whenInit_neverInvalidSegment _ fun _ => whenGrid_neverInvalidSegment _ g fun _ =>
    (answersOk_andThen _ fun _ => answersOk_respond .admits _ _).neverInvalidSegment

theorem execRefresh_neverInvalidSegment (s : State) : NeverInvalidSegment (execRefresh s) :=
  whenInit_neverInvalidSegment _ fun _ => (answersOk_andThen_respond .admits _).neverInvalidSegment

theorem execSendCommand_neverInvalidSegment (c : Byte) (s : State) :
    NeverInvalidSegment (execSendCommand c s) := by
  refine whenInit_neverInvalidSegment _ fun _ => ?_
  split
  · exact (answersOk_andThen_respond .admits _).neverInvalidSegment
  · exact respond_neverInvalidSegment .admits (by decide) none s

/-- Past its checks a request answers `OK`, and no check fails with `INVALID_SEGMENT`. -/
theorem exec_neverInvalidSegment_of_isRequest {i : Instr} (hi : isRequest i = true) (s : State) :
    NeverInvalidSegment (exec i s) := by
  cases i with
  | initializeBlock cfg => exact execInitialize_neverInvalidSegment cfg s
  | deinitialize => exact execDeinitialize_neverInvalidSegment s
  | writeSegments g p => exact execWriteSegments_neverInvalidSegment g p s
  | writeDigit g d => exact execWriteDigit_neverInvalidSegment g d s
  | writeString text => exact execWriteString_neverInvalidSegment text s
  | clear => exact execFill_neverInvalidSegment blankPattern s
  | fill p => exact execFill_neverInvalidSegment p s
  | readSegments g => exact execReadSegments_neverInvalidSegment g s
  | refresh => exact execRefresh_neverInvalidSegment s
  | sendCommand c => exact execSendCommand_neverInvalidSegment c s
  | _ => cases hi

/-! ## Instructions that answer nothing -/

theorem transmit_response {f : Frame} {s t : State} (h : transmit f s = .next t) :
    t.response = s.response := by
  obtain ⟨-, -, rfl⟩ := transmit_next h
  exact pulse_response s f

theorem response_of_present {out : PortOutput} {s t : State}
    (h : (.next (s.present out) : Res State) = .next t) : t.response = s.response := by
  rw [← Host.Outcome.next.inj h, present_response]

theorem execSelect_response {g : BitVec 4} {s t : State} (h : execSelect g s = .next t) :
    t.response = s.response := by
  unfold execSelect at h
  split at h
  · exact response_of_present h
  · exact response_of_present h

/-- Only a request writes the response: a frame goes to the link, a combinational port presents its result
on a port of its own, and a reserved instruction is refused. -/
theorem exec_response_of_not_isRequest {i : Instr} (hi : isRequest i = false) {s t : State}
    (h : exec i s = .next t) : t.response = s.response := by
  cases i with
  | reservedOpAB low => cases h
  | reservedOpCF low => cases h
  | frameDisplay g seg => exact transmit_response h
  | frameCmd cmd => exact transmit_response h
  | encodeDigit0 | encodeDigit1 | encodeDigit2 | encodeDigit3 | encodeDigit4 | encodeDigit5 | encodeDigit6
  | encodeDigit7 | encodeDigit8 | encodeDigit9 | encodeDot | encodeDash | encodeBlank =>
    exact response_of_present h
  | encodeReserved sym => cases h
  | select g => exact execSelect_response h
  | pack cmd mask seg => exact response_of_present h
  | frame w => exact response_of_present h
  | _ => cases hi

/-- Settles O33: a request answers with another status, and any other instruction leaves the response as it
was. -/
theorem invalidSegmentIsNeverReturned : Obligations.InvalidSegmentIsNeverReturned := by
  unfold Obligations.InvalidSegmentIsNeverReturned
  intro i s t r hrun hr hnew hinv
  cases hi : isRequest i with
  | true =>
    have status : t.status = some .invalidSegment := by rw [State.status, hr, Option.map_some, hinv]
    exact exec_neverInvalidSegment_of_isRequest hi s t hrun status
  | false => exact hnew (exec_response_of_not_isRequest hi hrun)

end Sys2Proof.Machine
end

section
/-! PROOFS of the other family, I: all that an instruction can leave when it goes on (`Effect`), whatever the
concurrent mutator does, and what every step keeps: the invariant (spec 10_state.md §6), whole frames in the
trace (20_memory.md R74), the parameters (R76), and the lifecycle's transitions (10_state.md R25). -/

namespace Sys2Proof.Machine

/-! ## Frames and sweeps in the grammar of the trace -/

/-- Spec 30_encoding.md R91: unframing a framed word and framing it again changes nothing, so a frame is
emittable by the class of its word alone. -/
theorem emittable_packFrame_display (pad : PadPosition) (g : GridIndex) (seg : SegmentPattern) :
    emittable pad (packFrame pad 0#3 (gridMask g) seg) = true := by
  simp only [emittable, unframe_packFrame, classifyWord_packWord_gridMask]
  simp [packFrame]

theorem emittable_packFrame_command (pad : PadPosition) (cmd : CommandCode) :
    emittable pad (packFrame pad cmd 0#9 0#8) = true := by
  simp only [emittable, unframe_packFrame, classifyWord_packWord_zero]
  simp [packFrame]

theorem framed_frameEvents {pad : PadPosition} {f : Frame} (hf : emittable pad f = true) :
    framed pad (frameEvents f) = true := by
  simp [frameEvents, framed, latchHoldUs, hf]

theorem framed_turnEvents (pad : PadPosition) (settleUs : U32) (g : GridIndex) (p : Byte) :
    framed pad (turnEvents pad settleUs g p) = true :=
  framed_append (framed_frameEvents (emittable_packFrame_display pad g p)) rfl

theorem framed_sweepEvents (pad : PadPosition) (settleUs : U32) (pats : GridIndex → Byte) :
    framed pad (sweepEvents pad settleUs pats) = true := by
  unfold sweepEvents
  induction allGrids with
  | nil => rfl
  | cons g rest ih => exact framed_append (framed_turnEvents pad settleUs g (pats g)) ih

theorem length_sweepEvents (pad : PadPosition) (settleUs : U32) (pats : GridIndex → Byte) :
    (sweepEvents pad settleUs pats).length = 63 := by
  simp [sweepEvents, allGrids, turnEvents, frameEvents]

/-! ## All an instruction can leave -/

/-- What a request may do to the buffer: it keeps the canonical form and every value, and stores nothing
outside `INIT`. -/
structure State.Keeps (s : State) (b : Memory) : Prop where
  wf : s.buf.wf → b.wf
  complete : s.buf.complete → b.complete
  notInit : (∀ cfg, s.life ≠ .init cfg) → b = s.buf

/-- All that an instruction can leave when it goes on. `b` and `m` are the buffer and the mutator's list,
`w` the word on the chip. -/
inductive Effect (s : State) : Instr → State → Prop
  /-- A request that emits nothing. `DEINITIALIZE` does so outside `INIT` only, and only `READ_SEGMENTS`
  answers with a byte. -/
  | answered {i : Instr} {b : Memory} {m : List (List ConcurrentStore)} {st : Status} {rd : Option Byte}
      (keeps : s.Keeps b) (hdeinit : i = .deinitialize → ∀ cfg, s.life ≠ .init cfg)
      (hread : rd ≠ none → st = .ok ∧ ∃ g, i = .readSegments g) :
      Effect s i (State.answer { s with buf := b, mutator := m } st rd)
  /-- `REFRESH` in `INIT`. -/
  | swept {b : Memory} {m : List (List ConcurrentStore)} {w : ControlWord} {settleUs : U32}
      {pats : GridIndex → Byte} {cfg : DriverConfig} (keeps : s.Keeps b) (hlife : s.life = .init cfg) :
      Effect s .refresh (State.answer { s with
        buf := b, mutator := m, chipOut := w
        trace := s.trace ++ sweepEvents s.params.framePad settleUs pats } .ok none)
  /-- `SEND_COMMAND` in `INIT` with a code up to 7. -/
  | sent {c : Byte} {b : Memory} {m : List (List ConcurrentStore)} {w : ControlWord} {f : Frame}
      {cfg : DriverConfig} (keeps : s.Keeps b) (hlife : s.life = .init cfg)
      (hf : emittable s.params.framePad f = true) :
      Effect s (.sendCommand c) (State.answer { s with
        buf := b, mutator := m, chipOut := w, trace := s.trace ++ frameEvents f } .ok none)
  /-- `INITIALIZE` outside `INIT` with a configuration that passes its checks. -/
  | started {arg : Option DriverConfig} {b : Memory} {m : List (List ConcurrentStore)}
      (wf : s.buf.wf → b.wf) (complete : b.complete) (hlife : ∀ cfg, s.life ≠ .init cfg)
      (hclock : (arg.getD (defaultCfg s.params)).clockHz ≠ 0#32)
      (hsettle : (arg.getD (defaultCfg s.params)).settleUs ≠ 0#32)
      (haccept : transportAccepts s.params (arg.getD (defaultCfg s.params)) = true) :
      Effect s (.initializeBlock arg) (State.answer { s.takeTransport with
        buf := b, mutator := m, life := .init (arg.getD (defaultCfg s.params)) } .ok none)
  /-- `DEINITIALIZE` in `INIT`. -/
  | stopped {m : List (List ConcurrentStore)} {w : ControlWord} {settleUs : U32} {pats : GridIndex → Byte}
      {cfg : DriverConfig} (hlife : s.life = .init cfg) :
      Effect s .deinitialize (State.answer (State.releaseTransport { s with
        mutator := m, chipOut := w
        trace := s.trace ++ sweepEvents s.params.framePad settleUs pats }) .ok none)
  /-- A frame put on the link. -/
  | transmitted {i : Instr} {w : ControlWord} {f : Frame} (hi : isRequest i = false)
      (howned : s.txOwned = true) (hf : emittable s.params.framePad f = true) :
      Effect s i { s with
        trace := s.trace ++ frameEvents f, chipOut := w, phase := s.scan.map fun _ => .latchLo }
  /-- A combinational port. -/
  | presented {i : Instr} {out : PortOutput} (hi : isRequest i = false) : Effect s i (s.present out)

/-! ### The answer -/

/-- Where stores are barred, an interleaving point that is passed takes an empty entry of the mutator's list
and does nothing else. Spec 20_memory.md R71. -/
theorem mutatorTurn_next_of_barred {gate : Gate} {s t : State} (h : mutatorTurn gate s = .next t)
    (hb : ¬ s.storesAllowed gate) : s.mutator.headD [] = [] ∧ t = { s with mutator := s.mutator.tail } := by
  have hempty : s.mutator.headD [] = [] := by
    cases hm : s.mutator with
    | nil => rfl
    | cons ws later =>
      cases ws with
      | nil => rfl
      | cons w ws =>
        rw [mutatorTurn_barred hm hb] at h
        cases h
  refine ⟨hempty, ?_⟩
  rw [mutatorTurn_next h, State.afterTurn, hempty, afterStores_nil]

theorem not_storesAllowed_bars (s : State) : ¬ s.storesAllowed .bars := fun ⟨h, _⟩ => by cases h

theorem not_storesAllowed_of_not_init {s : State} (h : ∀ cfg, s.life ≠ .init cfg) (gate : Gate) :
    ¬ s.storesAllowed gate := fun ⟨_, ⟨cfg, hl⟩, _⟩ => h cfg hl

theorem mutatorTurn_keeps {gate : Gate} {s t : State} (h : mutatorTurn gate s = .next t) : s.Keeps t.buf where
  wf := mutatorTurn_next h ▸ (afterTurn_bufOnly s).wf
  complete := mutatorTurn_next h ▸ (afterTurn_bufOnly s).complete
  notInit hl := by rw [(mutatorTurn_next_of_barred h (not_storesAllowed_of_not_init hl gate)).2]

/-- An answer leaves the response, and the mutator's stores at its point. -/
theorem respond_keeps {gate : Gate} {st : Status} {rd : Option Byte} {s t : State}
    (h : respond gate st rd s = .next t) :
    ∃ b m, s.Keeps b ∧ t = State.answer { s with buf := b, mutator := m } st rd := by
  obtain ⟨u, hu, ht⟩ := andThen_eq_next.1 h
  refine ⟨u.buf, u.mutator, mutatorTurn_keeps hu, ?_⟩
  rw [← Host.Outcome.next.inj ht, mutatorTurn_next hu]
  rfl

/-- An answer where stores are barred leaves the buffer alone. -/
theorem respond_bars_next {st : Status} {rd : Option Byte} {s t : State}
    (h : respond .bars st rd s = .next t) :
    t = State.answer { s with mutator := s.mutator.tail } st rd := by
  obtain ⟨u, hu, ht⟩ := andThen_eq_next.1 h
  rw [← Host.Outcome.next.inj ht, (mutatorTurn_next_of_barred hu (not_storesAllowed_bars s)).2]

theorem State.Keeps.of_init {s : State} {cfg : DriverConfig} (hl : s.life = .init cfg) {b : Memory}
    (wf : s.buf.wf → b.wf) (complete : s.buf.complete → b.complete) : s.Keeps b :=
  ⟨wf, complete, fun h => absurd hl (h cfg)⟩

/-- A request's answer alone. -/
theorem effect_of_respond {gate : Gate} {st : Status} {s t : State} {i : Instr}
    (hdeinit : i = .deinitialize → ∀ cfg, s.life ≠ .init cfg) (h : respond gate st none s = .next t) :
    Effect s i t := by
  obtain ⟨b, m, keeps, rfl⟩ := respond_keeps h
  exact .answered keeps hdeinit fun h => absurd rfl h

/-- The check of `LIFE`: past it a request is in `INIT`, and else it only answers. -/
theorem effect_of_whenInit {gate : Gate} {k : DriverConfig → State → Res State} {s t : State} {i : Instr}
    (hk : ∀ cfg, s.life = .init cfg → k cfg s = .next t → Effect s i t) (h : whenInit gate k s = .next t) :
    Effect s i t := by
  by_cases hl : ∃ cfg, s.life = .init cfg
  · obtain ⟨cfg, hl⟩ := hl
    rw [whenInit_init gate k hl] at h
    exact hk cfg hl h
  · have hl : ∀ cfg, s.life ≠ .init cfg := not_exists.1 hl
    rw [whenInit_not gate k hl] at h
    exact effect_of_respond (fun _ => hl) h

/-- The check of a `GRID` operand. -/
theorem effect_of_whenGrid {gate : Gate} {g : BitVec 4} {k : GridIndex → State → Res State} {s t : State}
    {i : Instr} (hi : i ≠ .deinitialize) (hk : ∀ grid, k grid s = .next t → Effect s i t)
    (h : whenGrid gate g k s = .next t) : Effect s i t := by
  unfold whenGrid at h
  split at h
  · exact hk _ h
  · exact effect_of_respond (fun h => absurd h hi) h

/-- In `INIT`, an operation that changes at most the buffer, the mutator's list and `CUR`, then the answer. -/
theorem effect_of_buffer {gate : Gate} {st : Status} {rd : Option Byte} {s u t : State} {i : Instr}
    {cfg : DriverConfig} (hl : s.life = .init cfg) (hi : i ≠ .deinitialize)
    (hread : rd ≠ none → st = .ok ∧ ∃ g, i = .readSegments g)
    (hu : u = { s with buf := u.buf, mutator := u.mutator, cur := u.cur }) (wf : s.buf.wf → u.buf.wf)
    (complete : s.buf.complete → u.buf.complete) (h : respond gate st rd u = .next t) : Effect s i t := by
  obtain ⟨b, m, keeps, rfl⟩ := respond_keeps h
  have answer : State.answer { u with buf := b, mutator := m } st rd =
      State.answer { s with buf := b, mutator := m } st rd := by rw [hu]; rfl
  rw [answer]
  exact .answered (.of_init hl (keeps.wf ∘ wf) (keeps.complete ∘ complete)) (fun h => absurd h hi) hread

/-- In `INIT`, an operation on the buffer alone, then the answer. -/
theorem effect_of_bufOnly {gate : Gate} {st : Status} {s u t : State} {i : Instr} {cfg : DriverConfig}
    (hl : s.life = .init cfg) (hi : i ≠ .deinitialize) (hu : BufOnly s u)
    (h : respond gate st none u = .next t) : Effect s i t :=
  effect_of_buffer hl hi (fun h => absurd rfl h) (by rw [hu.eq]) hu.wf hu.complete h

/-! ### The instructions -/

theorem effect_execWriteSegments {g : BitVec 4} {p : Byte} {s t : State}
    (h : execWriteSegments g p s = .next t) : Effect s (.writeSegments g p) t := by
  refine effect_of_whenInit (fun cfg hl => effect_of_whenGrid (by simp) fun grid h => ?_) h
  obtain ⟨u, hu, h⟩ := andThen_eq_next.1 h
  exact effect_of_bufOnly hl (by simp) (cellStore_bufOnly hu) h

theorem effect_execWriteDigit {g : BitVec 4} {d : Byte} {s t : State}
    (h : execWriteDigit g d s = .next t) : Effect s (.writeDigit g d) t := by
  refine effect_of_whenInit (fun cfg hl => effect_of_whenGrid (by simp) fun grid h => ?_) h
  split at h
  · obtain ⟨u, hu, h⟩ := andThen_eq_next.1 h
    exact effect_of_bufOnly hl (by simp) (cellStore_bufOnly hu) h
  · exact effect_of_respond (by simp) h

theorem effect_execWriteString {text : List Byte} {s t : State} (h : execWriteString text s = .next t) :
    Effect s (.writeString text) t := by
  refine effect_of_whenInit (fun cfg hl h => ?_) h
  obtain ⟨u, hu, h⟩ := andThen_eq_next.1 h
  obtain ⟨v, hv, h⟩ := andThen_eq_next.1 h
  have cleared := storeEach_bufOnly hu
  obtain ⟨rendered, wf, complete⟩ := renderText_next hv
  refine effect_of_buffer hl (by simp) (fun h => absurd rfl h) ?_ (wf ∘ cleared.wf)
    (complete ∘ cleared.complete) h
  rw [rendered, cleared.eq]

/-- `CLEAR` and `FILL`. -/
theorem effect_execFill {p : Byte} {s t : State} {i : Instr} (hi : i ≠ .deinitialize)
    (h : execFill p s = .next t) : Effect s i t := by
  refine effect_of_whenInit (fun cfg hl h => ?_) h
  obtain ⟨u, hu, h⟩ := andThen_eq_next.1 h
  exact effect_of_bufOnly hl hi (storeEach_bufOnly hu) h

theorem effect_execReadSegments {g : BitVec 4} {s t : State} (h : execReadSegments g s = .next t) :
    Effect s (.readSegments g) t := by
  refine effect_of_whenInit (fun cfg hl => effect_of_whenGrid (by simp) fun grid h => ?_) h
  obtain ⟨⟨v, u⟩, hu, h⟩ := andThen_eq_next.1 h
  obtain ⟨rfl, -⟩ : u = s.afterTurn ∧ _ := cellLoad_next hu
  have turn := afterTurn_bufOnly s
  exact effect_of_buffer hl (by simp) (fun _ => ⟨rfl, g, rfl⟩) rfl turn.wf turn.complete h

theorem effect_execRefresh {s t : State} (h : execRefresh s = .next t) : Effect s .refresh t := by
  refine effect_of_whenInit (fun cfg hl h => ?_) h
  obtain ⟨u, hu, h⟩ := andThen_eq_next.1 h
  obtain ⟨pats, swept, -, wf, complete⟩ := sweep_next hu
  obtain ⟨b, m, keeps, rfl⟩ := respond_keeps h
  have answer : State.answer { u with buf := b, mutator := m } .ok none = State.answer { s with
      buf := b, mutator := m, chipOut := u.chipOut
      trace := s.trace ++ sweepEvents s.params.framePad cfg.settleUs pats } .ok none := by rw [swept]; rfl
  rw [answer]
  exact .swept (.of_init hl (keeps.wf ∘ wf) (keeps.complete ∘ complete)) hl

theorem effect_execSendCommand {c : Byte} {s t : State} (h : execSendCommand c s = .next t) :
    Effect s (.sendCommand c) t := by
  refine effect_of_whenInit (fun cfg hl h => ?_) h
  split at h
  · rename_i cmd _
    obtain ⟨u, hu, h⟩ := andThen_eq_next.1 h
    obtain ⟨-, hlow, rfl⟩ := transmit_next hu
    obtain ⟨b, m, keeps, rfl⟩ := respond_keeps h
    rw [pulse_packFrame_of_low _ _ _ hlow]
    exact .sent (.of_init hl keeps.wf keeps.complete) hl (emittable_packFrame_command _ cmd)
  · exact effect_of_respond (by simp) h

theorem effect_execInitialize {arg : Option DriverConfig} {s t : State} (h : execInitialize arg s = .next t) :
    Effect s (.initializeBlock arg) t := by
  by_cases hl : ∃ cfg, s.life = .init cfg
  · obtain ⟨cfg, hl⟩ := hl
    rw [show execInitialize arg s = _ from exec_initializeBlock_init arg hl] at h
    exact effect_of_respond (by simp) h
  · have hl : ∀ cfg, s.life ≠ .init cfg := not_exists.1 hl
    rw [show execInitialize arg s = _ from exec_initializeBlock_not_init arg hl] at h
    unfold applyConfig at h
    split at h
    · exact effect_of_respond (by simp) h
    · rename_i hparam
      obtain ⟨hclock, hsettle⟩ := not_or.1 hparam
      split at h
      · exact effect_of_respond (by simp) h
      · rename_i haccept
        obtain ⟨u, hu, h⟩ := andThen_eq_next.1 h
        have cleared := storeEach_bufOnly hu
        have complete := storeEach_allGrids_complete hu
        rw [respond_bars_next h, cleared.eq]
        exact .started cleared.wf complete hl hclock hsettle (by simpa using haccept)

theorem effect_execDeinitialize {s t : State} (h : execDeinitialize s = .next t) :
    Effect s .deinitialize t := by
  refine effect_of_whenInit (fun cfg hl h => ?_) h
  obtain ⟨u, hu, h⟩ := andThen_eq_next.1 h
  obtain ⟨v, hv, h⟩ := andThen_eq_next.1 h
  obtain ⟨pats, swept, -⟩ := sweep_next hv
  rw [respond_bars_next h, swept, (storeEach_bufOnly hu).eq]
  exact .stopped hl

/-- A frame instruction, with a frame the block may emit. -/
theorem effect_of_transmit {cmd : CommandCode} {mask : GridMask} {seg : SegmentPattern} {s t : State} {i : Instr}
    (hi : isRequest i = false) (hf : emittable s.params.framePad (packFrame s.params.framePad cmd mask seg) = true)
    (h : transmit (packFrame s.params.framePad cmd mask seg) s = .next t) : Effect s i t := by
  obtain ⟨howned, hlow, rfl⟩ := transmit_next h
  rw [pulse_packFrame_of_low _ _ _ hlow]
  exact .transmitted hi howned hf

theorem effect_of_present {out : PortOutput} {s t : State} {i : Instr} (hi : isRequest i = false)
    (h : (.next (s.present out) : Res State) = .next t) : Effect s i t :=
  Host.Outcome.next.inj h ▸ .presented hi

theorem effect_execSelect {g : BitVec 4} {s t : State} (h : execSelect g s = .next t) :
    Effect s (.select g) t := by
  unfold execSelect at h
  split at h
  · exact effect_of_present rfl h
  · exact effect_of_present rfl h

/-- An instruction that goes on leaves one of the listed effects. -/
theorem exec_effect {i : Instr} {s t : State} (h : exec i s = .next t) : Effect s i t := by
  cases i with
  | initializeBlock arg => exact effect_execInitialize h
  | deinitialize => exact effect_execDeinitialize h
  | writeSegments g p => exact effect_execWriteSegments h
  | writeDigit g d => exact effect_execWriteDigit h
  | writeString text => exact effect_execWriteString h
  | clear => exact effect_execFill (p := blankPattern) (by simp) h
  | fill p => exact effect_execFill (p := p) (by simp) h
  | readSegments g => exact effect_execReadSegments h
  | refresh => exact effect_execRefresh h
  | sendCommand c => exact effect_execSendCommand h
  | reservedOpAB low => cases h
  | reservedOpCF low => cases h
  | frameDisplay g seg => exact effect_of_transmit rfl (emittable_packFrame_display _ g seg) h
  | frameCmd cmd => exact effect_of_transmit rfl (emittable_packFrame_command _ cmd) h
  | encodeDigit0 | encodeDigit1 | encodeDigit2 | encodeDigit3 | encodeDigit4 | encodeDigit5 | encodeDigit6
  | encodeDigit7 | encodeDigit8 | encodeDigit9 | encodeDot | encodeDash | encodeBlank =>
    exact effect_of_present rfl h
  | encodeReserved sym => cases h
  | select g => exact effect_execSelect h
  | pack cmd mask seg => exact effect_of_present rfl h
  | frame w => exact effect_of_present rfl h

/-! ## What every effect keeps -/

theorem Effect.params {s t : State} {i : Instr} (h : Effect s i t) : t.params = s.params := by
  cases h <;> rfl

/-- The events of an instruction: at most 64, whole frames among them, after those of before. -/
theorem Effect.trace {s t : State} {i : Instr} (h : Effect s i t) :
    ∃ es, t.trace = s.trace ++ es ∧ es.length ≤ 64 ∧ framed s.params.framePad es = true := by
  cases h with
  | answered => exact ⟨[], (List.append_nil _).symm, Nat.zero_le _, rfl⟩
  | swept => exact ⟨_, rfl, by rw [length_sweepEvents]; omega, framed_sweepEvents _ _ _⟩
  | sent _ _ hf => exact ⟨_, rfl, by simp [frameEvents], framed_frameEvents hf⟩
  | started => exact ⟨[.latch .low], rfl, by simp, rfl⟩
  | stopped =>
    exact ⟨_, List.append_assoc _ _ _, by simp [length_sweepEvents], framed_append (framed_sweepEvents _ _ _) rfl⟩
  | transmitted _ _ hf => exact ⟨_, rfl, by simp [frameEvents], framed_frameEvents hf⟩
  | presented => exact ⟨[], (List.append_nil _).symm, Nat.zero_le _, rfl⟩

theorem Effect.lifeStep {s t : State} {i : Instr} (h : Effect s i t) :
    LifeStep s.params i s.life t.life := by
  cases h with
  | answered _ hdeinit => exact .stay _ _ hdeinit
  | swept => exact .stay _ _ (by simp)
  | sent => exact .stay _ _ (by simp)
  | started _ _ hlife =>
    cases hl : s.life with
    | uninit => exact .start _
    | init cfg => exact absurd hl (hlife cfg)
    | deinit => exact .restart _
  | stopped hlife =>
    rw [hlife]
    exact .stop _
  | transmitted hi => exact .stay _ _ (by rintro rfl; cases hi)
  | presented hi => exact .stay _ _ (by rintro rfl; cases hi)

/-- A request that only answers keeps the invariant. -/
theorem State.Inv.answer {s : State} (hs : s.Inv) {b : Memory} (keeps : s.Keeps b)
    (m : List (List ConcurrentStore)) (st : Status) (rd : Option Byte) :
    (State.answer { s with buf := b, mutator := m } st rd).Inv where
  bufWf := keeps.wf hs.bufWf
  noScan := rfl
  noPhase := rfl
  noCur := rfl
  whileInit cfg hl :=
    have ⟨complete, rest⟩ := hs.whileInit cfg hl
    ⟨keeps.complete complete, rest⟩
  whileNotInit hl :=
    have ⟨empty, rest⟩ := hs.whileNotInit hl
    ⟨(keeps.notInit hl).trans empty, rest⟩
  silentUninit := hs.silentUninit

/-- Outside `UNINIT` the invariant does not speak of the trace, nor anywhere of the chip. -/
theorem State.Inv.emit {s : State} (hs : s.Inv) (hl : s.life ≠ .uninit) (es : List Event) (w : ControlWord) :
    State.Inv { s with trace := es, chipOut := w } :=
  { hs with silentUninit := fun h => absurd h hl }

theorem Effect.inv {s t : State} {i : Instr} (h : Effect s i t) (hs : s.Inv) : t.Inv := by
  cases h with
  | answered keeps => exact hs.answer keeps _ _ _
  | @swept b m w settleUs pats cfg keeps hlife =>
    have emitted := hs.emit (by simp [hlife]) (s.trace ++ sweepEvents s.params.framePad settleUs pats) w
    exact emitted.answer ⟨keeps.wf, keeps.complete, keeps.notInit⟩ m .ok none
  | @sent c b m w f cfg keeps hlife =>
    have emitted := hs.emit (by simp [hlife]) (s.trace ++ frameEvents f) w
    exact emitted.answer ⟨keeps.wf, keeps.complete, keeps.notInit⟩ m .ok none
  | started wf complete _ hclock hsettle haccept =>
    exact {
      bufWf := wf hs.bufWf
      noScan := rfl
      noPhase := rfl
      noCur := rfl
      whileInit := fun cfg hl => by
        cases hl
        exact ⟨complete, rfl, rfl, hclock, hsettle, haccept⟩
      whileNotInit := fun hl => absurd rfl (hl _)
      silentUninit := fun hl => by cases hl }
  | stopped =>
    exact {
      bufWf := wf_nil
      noScan := rfl
      noPhase := rfl
      noCur := rfl
      whileInit := fun cfg hl => by cases hl
      whileNotInit := fun _ => ⟨rfl, rfl, rfl⟩
      silentUninit := fun hl => by cases hl }
  | @transmitted _ w f _ howned =>
    have hl : s.life ≠ .uninit := fun hl => by
      obtain ⟨-, -, hfree⟩ := hs.whileNotInit (by simp [hl])
      rw [howned] at hfree
      cases hfree
    exact { hs.emit hl (s.trace ++ frameEvents f) w with noPhase := by simp [hs.noScan] }
  | presented => exact { hs with }

/-! ## One step -/

theorem presentInput_next {input : PortInput} {s t : State} (h : presentInput input s = .next t) :
    ∃ i, exec i s = .next t := by
  unfold presentInput at h
  split at h
  · exact ⟨_, h⟩
  · cases h
  · cases h

theorem handleLoad_next {g : Nat} {s t : State} (h : handleLoad g s = .next t) : ∃ v, t = s.present (.cell v) := by
  unfold handleLoad at h
  split at h
  · split at h
    · split at h
      · exact ⟨_, (Host.Outcome.next.inj h).symm⟩
      · cases h
    · cases h
  · cases h
  · cases h

theorem handleStore_next {g : Nat} {v : Byte} {s t : State} (h : handleStore g v s = .next t) :
    ∃ cfg grid, s.life = .init cfg ∧ t = s.setCell grid v := by
  unfold handleStore at h
  split at h
  · rename_i cfg hl
    split at h
    · exact ⟨cfg, _, hl, (Host.Outcome.next.inj h).symm⟩
    · cases h
  · cases h
  · cases h

theorem readRData_next {s t : State} (h : readRData s = .next t) : t = s := by
  unfold readRData at h
  split at h
  · exact (Host.Outcome.next.inj h).symm
  · cases h

/-- A property of states that does not speak of the pending actions, and that every instruction, every handle
access and reset keep, is kept by every step. -/
theorem step_keeps {P : State → Prop} (hhost : ∀ s later, P s → P { s with host := later })
    (hexec : ∀ i s t, Effect s i t → P s → P t) (hpresent : ∀ s out, P s → P (s.present out))
    (hstore : ∀ s g v cfg, s.life = .init cfg → P s → P (s.setCell g v))
    (hreset : ∀ s t, hardReset s = .next t → P s → P t) {s t : State} (h : step s = .next t) (hs : P s) :
    P t := by
  unfold step at h
  split at h
  · exact Host.Outcome.next.inj h ▸ hs
  · rename_i a later _
    have hs := hhost s later hs
    cases a with
    | present input =>
      obtain ⟨i, h⟩ := presentInput_next h
      exact hexec _ _ _ (exec_effect h) hs
    | handleLoad g =>
      obtain ⟨v, rfl⟩ := handleLoad_next h
      exact hpresent _ _ hs
    | handleStore g v =>
      obtain ⟨cfg, grid, hl, rfl⟩ := handleStore_next h
      exact hstore _ grid v cfg hl hs
    | readRData =>
      obtain rfl := readRData_next h
      exact hs
    | hardReset => exact hreset _ _ h hs

theorem reset_inv : State.reset.Inv where
  bufWf := wf_nil
  noScan := rfl
  noPhase := rfl
  noCur := rfl
  whileInit cfg hl := by cases hl
  whileNotInit _ := ⟨rfl, rfl, rfl⟩
  silentUninit _ := rfl

/-- Reset restores the invariant, whatever stood before. -/
theorem hardReset_inv {s t : State} (h : hardReset s = .next t) : t.Inv := by
  cases h
  exact { reset_inv with whileInit := fun cfg hl => by cases hl }

theorem setCell_inv {s : State} (hs : s.Inv) {cfg : DriverConfig} (hl : s.life = .init cfg) (g : GridIndex)
    (v : Byte) : (s.setCell g v).Inv where
  bufWf := store_wf hs.bufWf g.isLt v
  noScan := hs.noScan
  noPhase := hs.noPhase
  noCur := hs.noCur
  whileInit cfg hl :=
    have ⟨complete, rest⟩ := hs.whileInit cfg hl
    ⟨store_complete complete _ _, rest⟩
  whileNotInit h := absurd hl (h cfg)
  silentUninit := hs.silentUninit

/-- Settles O51: every effect of an instruction keeps the invariant, and so do a handle access and reset. -/
theorem everyStepKeepsTheInvariant : Obligations.EveryStepKeepsTheInvariant := by
  unfold Obligations.EveryStepKeepsTheInvariant
  intro s t hs h
  refine step_keeps (P := State.Inv) ?host ?exec ?present ?store ?reset h hs
  case host => exact fun s later hs => { hs with }
  case exec => exact fun i s t h hs => h.inv hs
  case present => exact fun s out hs => { hs with }
  case store => exact fun s g v cfg hl hs => setCell_inv hs hl g v
  case reset => exact fun s t h _ => hardReset_inv h

/-- Settles O53: the events an instruction appends are whole frames, and the pad position stays; reset empties
the trace. -/
theorem everyStepKeepsFramesWhole : Obligations.EveryStepKeepsFramesWhole := by
  unfold Obligations.EveryStepKeepsFramesWhole
  intro s t hs h
  refine step_keeps (P := fun s => framed s.params.framePad s.trace = true) ?host ?exec ?present ?store ?reset
    h hs
  case host => exact fun s later hs => hs
  case exec =>
    intro i s t h hs
    obtain ⟨es, htrace, -, hes⟩ := h.trace
    rw [h.params, htrace]
    exact framed_append hs hes
  case present => exact fun s out hs => hs
  case store => exact fun s g v cfg hl hs => hs
  case reset => exact fun s t h _ => by cases h; rfl

/-- Settles O54: no effect of an instruction touches the parameters, and reset leaves them. -/
theorem noStepChangesAParameter : Obligations.NoStepChangesAParameter := by
  unfold Obligations.NoStepChangesAParameter
  intro s t h
  refine step_keeps (P := fun t => t.params = s.params) ?host ?exec ?present ?store ?reset h rfl
  case host => exact fun s later hs => hs
  case exec => exact fun i s t h hs => h.params.trans hs
  case present => exact fun s out hs => hs
  case store => exact fun s g v cfg hl hs => hs
  case reset => exact fun s t h hs => by cases h; exact hs

/-- Settles O50: reset holds no cell, no transient and no event. -/
theorem resetMeetsTheInvariant : Obligations.ResetMeetsTheInvariant := ⟨reset_inv, rfl⟩

/-! ## One instruction -/

/-- Settles O55: the longest of the effects is the sweep of `DEINITIALIZE` with its release. -/
theorem traceGrowsByAtMost64Events : Obligations.TraceGrowsByAtMost64Events := by
  unfold Obligations.TraceGrowsByAtMost64Events
  intro i s t h
  obtain ⟨es, htrace, hlen, -⟩ := (exec_effect h).trace
  exact ⟨es, htrace, hlen⟩

/-- Settles O23: `LIFE` changes only where `INITIALIZE` starts the block or `DEINITIALIZE` stops it. -/
theorem lifecycleChangesOnlyAsListed : Obligations.LifecycleChangesOnlyAsListed := by
  unfold Obligations.LifecycleChangesOnlyAsListed
  exact fun i s t h => (exec_effect h).lifeStep

/-- The six requests on the buffer. Spec 20_memory.md R67. -/
def onBuffer (i : Instr) : Bool :=
  match i with
  | .writeSegments _ _ | .writeDigit _ _ | .writeString _ | .clear | .fill _ | .readSegments _ => true
  | _ => false

theorem isRequest_of_onBuffer {i : Instr} (h : onBuffer i = true) : isRequest i = true := by
  cases i with
  | writeSegments | writeDigit | writeString | clear | fill | readSegments => rfl
  | _ => cases h

theorem exec_onBuffer_next {i : Instr} (hi : onBuffer i = true) {s t : State} (h : exec i s = .next t) :
    t.trace = s.trace ∧ t.latch = s.latch ∧ t.txOwned = s.txOwned ∧ t.chipOut = s.chipOut ∧
      t.life = s.life ∧ t.portOut = s.portOut := by
  cases exec_effect h with
  | answered => exact ⟨rfl, rfl, rfl, rfl, rfl, rfl⟩
  | swept => cases hi
  | sent => cases hi
  | started => cases hi
  | stopped => cases hi
  | transmitted hnot => cases (isRequest_of_onBuffer hi).symm.trans hnot
  | presented hnot => cases (isRequest_of_onBuffer hi).symm.trans hnot

/-- Settles O34: the one effect that a request on the buffer can have leaves all six fields alone. -/
theorem bufferRequestsTransmitNothing : Obligations.BufferRequestsTransmitNothing := by
  unfold Obligations.BufferRequestsTransmitNothing
  rintro s t g p text (h | h | h | h | h | h)
  · exact exec_onBuffer_next (i := .writeSegments g p) rfl h
  · exact exec_onBuffer_next (i := .writeDigit g p) rfl h
  · exact exec_onBuffer_next (i := .writeString text) rfl h
  · exact exec_onBuffer_next (i := .clear) rfl h
  · exact exec_onBuffer_next (i := .fill p) rfl h
  · exact exec_onBuffer_next (i := .readSegments g) rfl h

/-- A response that an instruction writes has a byte only if it is the `OK` of `READ_SEGMENTS`. -/
theorem Effect.response {s t : State} {i : Instr} (h : Effect s i t) :
    t.response = s.response ∨ ∃ st rd, t.response = some ⟨st, rd⟩ ∧
      (rd ≠ none → st = .ok ∧ ∃ g, i = .readSegments g) := by
  cases h with
  | answered _ _ hread => exact .inr ⟨_, _, rfl, hread⟩
  | swept => exact .inr ⟨_, _, rfl, fun h => absurd rfl h⟩
  | sent => exact .inr ⟨_, _, rfl, fun h => absurd rfl h⟩
  | started => exact .inr ⟨_, _, rfl, fun h => absurd rfl h⟩
  | stopped => exact .inr ⟨_, _, rfl, fun h => absurd rfl h⟩
  | transmitted => exact .inl rfl
  | presented => exact .inl rfl

theorem step_readRData {s : State} {later : List HostAction} (h : s.host = .readRData :: later) :
    step s = readRData { s with host := later } := by
  simp only [step, h, performAction]

theorem readRData_of_rdata {s : State} {v : Byte} (h : s.rdata = some v) : readRData s = .next s := by
  simp only [readRData, h]

theorem readRData_of_no_rdata {s : State} (h : s.rdata = none) : readRData s = .refused .rdataHasNoValue := by
  simp only [readRData, h]

/-- Settles O37: only `READ_SEGMENTS` answers with a byte, and whether `RDATA` has a value is the one test that
a read of it makes. -/
theorem rDataIsReadableOnlyWithAValue : Obligations.RDataIsReadableOnlyWithAValue := by
  unfold Obligations.RDataIsReadableOnlyWithAValue
  constructor
  · intro i s t st v h hr hnew
    obtain hold | ⟨st', rd, hr', hread⟩ := (exec_effect h).response
    · exact absurd hold hnew
    · cases hr.symm.trans hr'
      exact hread (by simp)
  · intro s later hhost
    rw [step_readRData hhost]
    refine ⟨fun st v hr => readRData_of_rdata (v := v) ?_, fun st hr => readRData_of_no_rdata ?_,
      fun hr => readRData_of_no_rdata ?_⟩
    · simp only [State.rdata, hr, Option.bind_some]
    · simp only [State.rdata, hr, Option.bind_some]
    · simp only [State.rdata, hr, Option.bind_none]

end Sys2Proof.Machine
end

section
/-! PROOFS of the other family, II: the encodings. Every instruction is decoded back, no bit of a request word
is dropped (spec 30_encoding.md R95 to R98), reserved fields and symbols are refused (R84, R97), and the classes
of control words (R90). -/

namespace Sys2Proof.Machine

open Laws

/-! ## Round trips -/

/-- Settles O2: one round trip for each row of the opcode table. -/
theorem everyInstructionDecodesBack : Obligations.EveryInstructionDecodesBack := by
  unfold Obligations.EveryInstructionDecodesBack
  intro i
  cases i with
  | initializeBlock cfg => exact RoundTrip.initializeBlock cfg
  | deinitialize => exact RoundTrip.deinitialize
  | writeSegments g p => exact RoundTrip.writeSegments g p
  | writeDigit g d => exact RoundTrip.writeDigit g d
  | writeString text => exact RoundTrip.writeString text
  | clear => exact RoundTrip.clear
  | fill p => exact RoundTrip.fill p
  | readSegments g => exact RoundTrip.readSegments g
  | refresh => exact RoundTrip.refresh
  | sendCommand c => exact RoundTrip.sendCommand c
  | reservedOpAB low => exact RoundTrip.reservedOpAB low
  | reservedOpCF low => exact RoundTrip.reservedOpCF low
  | frameDisplay g seg => exact RoundTrip.frameDisplay g seg
  | frameCmd cmd => exact RoundTrip.frameCmd cmd
  | encodeDigit0 => exact RoundTrip.encodeDigit0
  | encodeDigit1 => exact RoundTrip.encodeDigit1
  | encodeDigit2 => exact RoundTrip.encodeDigit2
  | encodeDigit3 => exact RoundTrip.encodeDigit3
  | encodeDigit4 => exact RoundTrip.encodeDigit4
  | encodeDigit5 => exact RoundTrip.encodeDigit5
  | encodeDigit6 => exact RoundTrip.encodeDigit6
  | encodeDigit7 => exact RoundTrip.encodeDigit7
  | encodeDigit8 => exact RoundTrip.encodeDigit8
  | encodeDigit9 => exact RoundTrip.encodeDigit9
  | encodeDot => exact RoundTrip.encodeDot
  | encodeDash => exact RoundTrip.encodeDash
  | encodeBlank => exact RoundTrip.encodeBlank
  | encodeReserved sym => exact RoundTrip.encodeReserved sym
  | select g => exact RoundTrip.select g
  | pack cmd mask seg => exact RoundTrip.pack cmd mask seg
  | frame w => exact RoundTrip.frame w

/-- Settles O1: each word is read by the decoder. -/
theorem writtenOutWordsDecode : Obligations.WrittenOutWordsDecode := by
  unfold Obligations.WrittenOutWordsDecode
  decide

/-- Spec 30_encoding.md R95: a request word is its three fields. -/
theorem requestWord_fields (w : RequestWord) : requestWord (opField w) (gridField w) (dataField w) = w := by
  apply BitVec.eq_of_getLsbD_eq
  intro i hi
  interval_cases i <;> simp [requestWord, opField, gridField, dataField]

/-- A request word with the fields named. -/
theorem requestWord_eq_of_fields {w : RequestWord} {op g : BitVec 4} {d : Byte} (hop : opField w = op)
    (hg : gridField w = g) (hd : dataField w = d) : requestWord op g d = w := by
  rw [← requestWord_fields w, hop, hg, hd]

theorem whenZero_eq_ok {p : Prop} [Decidable p] {i j : Instr} (h : whenZero (decide p) i = .ok j) :
    p ∧ i = j := by
  unfold whenZero at h
  split at h
  · exact ⟨of_decide_eq_true ‹_›, Except.ok.inj h⟩
  · cases h

/-- `DATA` of `INITIALIZE` is its bit 0, the other bits being 0. Spec 30_encoding.md R96. -/
theorem byte_eq_of_high_zero : ∀ {d : Byte}, d.extractLsb' 1 7 = 0#7 → d = if d.getLsbD 0 then 1#8 else 0#8 := by
  decide

theorem opField_eq_ofNat {w : RequestWord} {n : Nat} (h : (opField w).toNat = n) : opField w = BitVec.ofNat 4 n := by
  rw [← h, BitVec.ofNat_toNat, BitVec.setWidth_eq]

/-- The 13 low bits of a word with `OP` 0xA or 0xB, with the other bits of `OP`, are the word. -/
theorem reservedOpAB_word {w : RequestWord} (h : (opField w).toNat = 0xA ∨ (opField w).toNat = 0xB) :
    0xA000#16 ||| (w.extractLsb' 0 13).setWidth 16 = w := by
  have top : ∀ op : BitVec 4, op.toNat = 0xA ∨ op.toNat = 0xB →
      op.getLsbD 1 = true ∧ op.getLsbD 2 = false ∧ op.getLsbD 3 = true := by decide
  obtain ⟨h1, h2, h3⟩ := top _ h
  rw [opField, BitVec.getLsbD_extractLsb'] at h1 h2 h3
  apply BitVec.eq_of_getLsbD_eq
  intro i hi
  interval_cases i <;> simp_all

/-- The 14 low bits of a word with `OP` 0xC to 0xF, with the two top bits of `OP`, are the word. -/
theorem reservedOpCF_word {w : RequestWord} (h : 0xC ≤ (opField w).toNat) :
    0xC000#16 ||| (w.extractLsb' 0 14).setWidth 16 = w := by
  have top : ∀ op : BitVec 4, 0xC ≤ op.toNat → op.getLsbD 2 = true ∧ op.getLsbD 3 = true := by decide
  obtain ⟨h2, h3⟩ := top _ h
  rw [opField, BitVec.getLsbD_extractLsb'] at h2 h3
  apply BitVec.eq_of_getLsbD_eq
  intro i hi
  interval_cases i <;> simp_all

/-- A word whose fields are those of a request without side operands. -/
theorem encodeRequest_fields {w : RequestWord} {n : Nat} {g : BitVec 4} {d : Byte} (hop : (opField w).toNat = n)
    (hg : gridField w = g) (hd : dataField w = d) :
    ∃ text config, encodeRequest (requestWord (BitVec.ofNat 4 n) g d) = .request w text config :=
  ⟨[], zeroCfg, congrArg encodeRequest (requestWord_eq_of_fields (opField_eq_ofNat hop) hg hd)⟩

/-- The word of an instruction that a request word decodes to is that word. -/
theorem encode_decodeRequest {w : RequestWord} {text : List Byte} {config : DriverConfig} {i : Instr}
    (h : decodeRequest w text config = .ok i) : ∃ text' config', encode i = .request w text' config' := by
  unfold decodeRequest at h
  split at h
  · rename_i hop
    obtain ⟨⟨hg, hd⟩, rfl⟩ := whenZero_eq_ok h
    have word := requestWord_eq_of_fields (opField_eq_ofNat hop) hg (byte_eq_of_high_zero hd)
    cases hcfg : (dataField w).getLsbD 0 with
    | true =>
      rw [hcfg] at word
      exact ⟨[], config, congrArg (PortInput.request · [] config) word⟩
    | false =>
      rw [hcfg] at word
      exact ⟨[], zeroCfg, congrArg encodeRequest word⟩
  · rename_i hop
    obtain ⟨⟨hg, hd⟩, rfl⟩ := whenZero_eq_ok h
    exact encodeRequest_fields hop hg hd
  · rename_i hop
    cases h
    exact encodeRequest_fields hop rfl rfl
  · rename_i hop
    cases h
    exact encodeRequest_fields hop rfl rfl
  · rename_i hop
    obtain ⟨⟨hg, hd⟩, rfl⟩ := whenZero_eq_ok h
    have word := requestWord_eq_of_fields (opField_eq_ofNat hop) hg hd
    exact ⟨text, zeroCfg, congrArg (PortInput.request · text zeroCfg) word⟩
  · rename_i hop
    obtain ⟨⟨hg, hd⟩, rfl⟩ := whenZero_eq_ok h
    exact encodeRequest_fields hop hg hd
  · rename_i hop
    obtain ⟨hg, rfl⟩ := whenZero_eq_ok h
    exact encodeRequest_fields hop hg rfl
  · rename_i hop
    obtain ⟨hd, rfl⟩ := whenZero_eq_ok h
    exact encodeRequest_fields hop rfl hd
  · rename_i hop
    obtain ⟨⟨hg, hd⟩, rfl⟩ := whenZero_eq_ok h
    exact encodeRequest_fields hop hg hd
  · rename_i hop
    obtain ⟨hg, rfl⟩ := whenZero_eq_ok h
    exact encodeRequest_fields hop hg rfl
  · rename_i hop
    cases h
    exact ⟨[], zeroCfg, congrArg encodeRequest (reservedOpAB_word (.inl hop))⟩
  · rename_i hop
    cases h
    exact ⟨[], zeroCfg, congrArg encodeRequest (reservedOpAB_word (.inr hop))⟩
  · cases h
    have high : 0xC ≤ (opField w).toNat := by
      simp only [imp_false] at *
      omega
    exact ⟨[], zeroCfg, congrArg encodeRequest (reservedOpCF_word high)⟩

/-- Settles O3, by the rows of the decoder: each keeps the fields it reads and holds the others to 0. -/
theorem requestWordsEncodeBack : Obligations.RequestWordsEncodeBack := by
  unfold Obligations.RequestWordsEncodeBack
  exact fun w text config i h => encode_decodeRequest h

/-! ## Refusals -/

theorem presentInput_reservedField {w : RequestWord} {text : List Byte} {config : DriverConfig}
    (h : decodeRequest w text config = .error .reservedField) (s : State) :
    presentInput (.request w text config) s = .refused .reservedField := by
  simp only [presentInput, decode, h]

/-- Spec 30_encoding.md R96, R97: the `OP` values whose `GRID` must be 0. -/
theorem decodeRequest_grid_nonzero {w : RequestWord} (hg : gridField w ≠ 0#4)
    (hop : opField w ∈ [0x0#4, 0x1#4, 0x4#4, 0x5#4, 0x6#4, 0x8#4, 0x9#4]) (text : List Byte)
    (config : DriverConfig) : decodeRequest w text config = .error .reservedField := by
  simp only [List.mem_cons, List.not_mem_nil, or_false] at hop
  unfold decodeRequest
  rcases hop with hop | hop | hop | hop | hop | hop | hop <;> simp [hop, hg, whenZero]

/-- Spec 30_encoding.md R96, R97: the `OP` values whose `DATA` must be 0. -/
theorem decodeRequest_data_nonzero {w : RequestWord} (hd : dataField w ≠ 0#8)
    (hop : opField w ∈ [0x1#4, 0x4#4, 0x5#4, 0x7#4, 0x8#4]) (text : List Byte) (config : DriverConfig) :
    decodeRequest w text config = .error .reservedField := by
  simp only [List.mem_cons, List.not_mem_nil, or_false] at hop
  unfold decodeRequest
  rcases hop with hop | hop | hop | hop | hop <;> simp [hop, hd, whenZero]

/-- Spec 30_encoding.md R96, R97: `DATA[7:1]` of `INITIALIZE`. -/
theorem decodeRequest_data_high_nonzero {w : RequestWord} (hd : (dataField w).extractLsb' 1 7 ≠ 0#7)
    (hop : opField w = 0x0#4) (text : List Byte) (config : DriverConfig) :
    decodeRequest w text config = .error .reservedField := by
  simp [decodeRequest, hop, hd, whenZero]

/-- Settles O4: whichever must-be-0 field is nonzero, the decoder refuses the word, before any state is read. -/
theorem nonzeroReservedFieldRefused : Obligations.NonzeroReservedFieldRefused := by
  unfold Obligations.NonzeroReservedFieldRefused
  intro s w text config later hhost h
  have data : (dataField w).extractLsb' 1 7 = w.extractLsb' 1 7 := by
    apply BitVec.eq_of_getLsbD_eq
    intro i hi
    interval_cases i <;> simp [dataField]
  rw [step_present hhost]
  apply presentInput_reservedField
  rcases h with ⟨hg, hop⟩ | ⟨hd, hop⟩ | ⟨hd, hop⟩
  · exact decodeRequest_grid_nonzero hg hop text config
  · exact decodeRequest_data_nonzero hd hop text config
  · exact decodeRequest_data_high_nonzero (data ▸ hd) hop text config

theorem decodeSymbol_reserved : ∀ {sym : BitVec 4}, 0xD ≤ sym.toNat → decodeSymbol sym = .encodeReserved sym := by
  decide

/-- Settles O6: a code of 0xD to 0xF decodes to the reserved instruction, which is refused. -/
theorem reservedSymbolsRefused : Obligations.ReservedSymbolsRefused := by
  unfold Obligations.ReservedSymbolsRefused
  refine ⟨fun s sym later hhost hsym => ?_, exec_encodeReserved⟩
  rw [step_present hhost]
  simp only [presentInput, decode, decodeSymbol_reserved hsym, exec_encodeReserved]

/-! ## Classes of control words -/

/-- A mask that has a grid is the mask of that grid. Spec 30_encoding.md R94. -/
theorem eq_gridMask_of_gridOfMask {m : GridMask} {g : GridIndex} (h : gridOfMask m = some g) : m = gridMask g := by
  unfold gridOfMask at h
  split at h
  case h_10 => cases h
  all_goals
    rename_i hm
    cases h
    exact BitVec.eq_of_toNat_eq hm

theorem gridOfMask_eq_none {m : GridMask} (h : ∀ g : GridIndex, m ≠ gridMask g) : gridOfMask m = none :=
  Option.eq_none_iff_forall_ne_some.2 fun g hg => h g (eq_gridMask_of_gridOfMask hg)

/-- Settles O7: the class is read from the mask, and a mask that is no grid's needs the zero pattern too. -/
theorem packedWordsHaveTheirClass : Obligations.PackedWordsHaveTheirClass := by
  unfold Obligations.PackedWordsHaveTheirClass
  intro cmd seg
  refine ⟨fun g => classifyWord_packWord_gridMask cmd g seg, classifyWord_packWord_zero cmd, fun hseg => ?_,
    fun mask hmask hgrid => ?_⟩
  · simp [classifyWord, gridOfMask_zero, hseg]
  · simp [classifyWord, gridOfMask_eq_none hgrid, hmask]

end Sys2Proof.Machine
end

section
/-! PROOFS of the other family, III: the datapath's bytes and fields (spec 30_encoding.md R81 to R93,
40_datapath.md R123, R124, 20_memory.md R62). -/

namespace Sys2Proof.Machine

/-- Settles O9: each row of the table against each segment of the bit map. -/
theorem defaultTableLightsTheListedSegments : Obligations.DefaultTableLightsTheListedSegments := by
  unfold Obligations.DefaultTableLightsTheListedSegments
  intro seg
  cases seg <;> decide

/-- Settles O12: a packed word is its three fields side by side. -/
theorem packedFieldsReadBack : Obligations.PackedFieldsReadBack := by
  unfold Obligations.PackedFieldsReadBack
  exact fun cmd mask seg =>
    ⟨wordCmd_packWord cmd mask seg, wordMask_packWord cmd mask seg, wordSeg_packWord cmd mask seg⟩

/-! ## The bytes of a frame -/

/-- Spec 30_encoding.md R91: under `LOW` the word stands above the four pad bits. -/
theorem frameBytes_low (w : ControlWord) :
    frameBytes .low w = ⟨w.extractLsb' 12 8, w.extractLsb' 4 8, w.extractLsb' 0 8 <<< 4⟩ := by
  simp only [frameBytes, splitFrame, frameValue, Frame.mk.injEq]
  refine ⟨?_, ?_, ?_⟩ <;>
  · apply BitVec.eq_of_getLsbD_eq
    intro i hi
    interval_cases i <;> simp

/-- Spec 30_encoding.md R93: under `HIGH` the four pad bits stand above the word. -/
theorem frameBytes_high (w : ControlWord) :
    frameBytes .high w = ⟨(w.extractLsb' 16 4).setWidth 8, w.extractLsb' 8 8, w.extractLsb' 0 8⟩ := by
  simp only [frameBytes, splitFrame, frameValue, Frame.mk.injEq]
  refine ⟨?_, ?_, ?_⟩ <;>
  · apply BitVec.eq_of_getLsbD_eq
    intro i hi
    interval_cases i <;> simp

theorem exec_frame (w : ControlWord) (s : State) :
    exec (.frame w) s = .next { s with portOut := .frame (frameBytes s.params.framePad w) } := rfl

/-- Settles O13: the port presents the bytes of the frame in the state's layout. -/
theorem framePortPadsAndSplits : Obligations.FramePortPadsAndSplits := by
  unfold Obligations.FramePortPadsAndSplits
  intro w s
  exact ⟨fun hlow => by rw [exec_frame, hlow, frameBytes_low],
    fun hhigh => by rw [exec_frame, hhigh, frameBytes_high]⟩

/-- Settles O14: the padding is on one side of the word under either position, so the word is read back. -/
theorem framingIsUndone : Obligations.FramingIsUndone := unframe_frameBytes

/-- Settles O15, bit by bit: each byte of the frame of a packed word takes its bits from the fields. -/
theorem packFrameClosedForms : Obligations.PackFrameClosedForms := by
  unfold Obligations.PackFrameClosedForms
  intro cmd mask seg
  rw [packFrame, packFrame, frameBytes_low, frameBytes_high, Frame.mk.injEq, Frame.mk.injEq]
  refine ⟨⟨?_, ?_, ?_⟩, ?_, ?_, ?_⟩ <;>
  · apply BitVec.eq_of_getLsbD_eq
    intro i hi
    interval_cases i <;> simp [packWord]

/-- Settles O16: bit 23 - i of the joined frame is in byte 0, 1 or 2 as i is below 8, below 16 or above. -/
theorem wireCarriesMostSignificantBitFirst : Obligations.WireCarriesMostSignificantBitFirst := by
  unfold Obligations.WireCarriesMostSignificantBitFirst
  intro f
  simp [wireBits, joinFrame, List.range_succ]

end Sys2Proof.Machine
end

section
/-! PROOFS of the other family, IV: the host's actions. A step runs what is presented (spec 10_state.md R23), the
direct handle loads and stores cells (42_buffer_ops.md R167), and reset (70_reset_and_hazards.md R290). -/

namespace Sys2Proof.Machine

/-- Settles O47: the decoder's instruction is run on the state with the action taken from the list. -/
theorem stepRunsThePresentedInstruction : Obligations.StepRunsThePresentedInstruction := by
  unfold Obligations.StepRunsThePresentedInstruction
  refine ⟨fun s input i later hhost hdecode => ?_, fun s hhost => ?_⟩
  · rw [step_present hhost]
    simp only [presentInput, hdecode]
  · simp only [step, hhost]

/-! ## The direct handle -/

theorem step_handleStore {s : State} {g : Nat} {v : Byte} {later : List HostAction}
    (h : s.host = .handleStore g v :: later) : step s = handleStore g v { s with host := later } := by
  simp only [step, h, performAction]

theorem step_handleLoad {s : State} {g : Nat} {later : List HostAction} (h : s.host = .handleLoad g :: later) :
    step s = handleLoad g { s with host := later } := by
  simp only [step, h, performAction]

section
variable {s : State} {cfg : DriverConfig} {g : Nat}

theorem handleStore_init (hl : s.life = .init cfg) (hg : g < 9) (v : Byte) :
    handleStore g v s = .next (s.setCell ⟨g, hg⟩ v) := by
  simp only [handleStore, hl, dif_pos hg]

theorem step_handleStore_init {later : List HostAction} {v : Byte} (hl : s.life = .init cfg)
    (hhost : s.host = .handleStore g v :: later) (hg : g < 9) :
    step s = .next { s with host := later, buf := s.buf.store g v } := by
  rw [step_handleStore hhost]
  exact handleStore_init (s := { s with host := later }) hl hg v

theorem handleStore_index (hl : s.life = .init cfg) (hg : 9 ≤ g) (v : Byte) :
    handleStore g v s = .refused .handleIndex := by
  simp only [handleStore, hl, dif_neg (Nat.not_lt.2 hg)]

theorem handleStore_not_init (hl : ∀ cfg, s.life ≠ .init cfg) (g : Nat) (v : Byte) :
    handleStore g v s = .refused .handleAbsent := by
  unfold handleStore
  split
  · exact absurd ‹_› (hl _)
  · rfl
  · rfl

theorem handleLoad_init (hl : s.life = .init cfg) (hg : g < 9) {v : Byte} (hv : s.buf.load g = some v) :
    handleLoad g s = .next (s.present (.cell v)) := by
  simp only [handleLoad, hl, if_pos hg, hv, State.present]

theorem handleLoad_index (hl : s.life = .init cfg) (hg : 9 ≤ g) : handleLoad g s = .refused .handleIndex := by
  simp only [handleLoad, hl, if_neg (Nat.not_lt.2 hg)]

theorem handleLoad_not_init (hl : ∀ cfg, s.life ≠ .init cfg) (g : Nat) :
    handleLoad g s = .refused .handleAbsent := by
  unfold handleLoad
  split
  · exact absurd ‹_› (hl _)
  · rfl
  · rfl

end

/-- Settles O35: the handle is checked for `LIFE` and for the index, and past both is one access. -/
theorem directHandleAccessesCells : Obligations.DirectHandleAccessesCells := by
  unfold Obligations.DirectHandleAccessesCells
  intro g v s later
  refine ⟨fun cfg hl hhost hg => ?_, fun cfg hl hhost hg hv => ?_, fun cfg hl hhost hg => ?_,
    fun hl hhost => ?_⟩
  · exact step_handleStore_init hl hhost hg
  · rw [step_handleLoad hhost]
    exact handleLoad_init (s := { s with host := later }) hl hg hv
  · rcases hhost with hhost | hhost
    · rw [step_handleStore hhost]
      exact handleStore_index (s := { s with host := later }) hl hg v
    · rw [step_handleLoad hhost]
      exact handleLoad_index (s := { s with host := later }) hl hg
  · rcases hhost with hhost | hhost
    · rw [step_handleStore hhost]
      exact handleStore_not_init (s := { s with host := later }) hl g v
    · rw [step_handleLoad hhost]
      exact handleLoad_not_init (s := { s with host := later }) hl g

/-- The word of `READ_SEGMENTS` for a grid in range. Spec 30_encoding.md R96. -/
theorem decodeRequest_readSegments (g : GridIndex) (text : List Byte) (config : DriverConfig) :
    decodeRequest (BitVec.ofNat 16 (0x7000 + 0x100 * g.val)) text config =
      .ok (.readSegments (BitVec.ofNat 4 g.val)) := by
  fin_cases g <;> rfl

theorem step_readSegments {s : State} {cfg : DriverConfig} {g : GridIndex} {v : Byte} {text : List Byte}
    {config : DriverConfig} {later : List HostAction} (hm : s.mutator = []) (hl : s.life = .init cfg)
    (hhost : s.host = .present (.request (BitVec.ofNat 16 (0x7000 + 0x100 * g.val)) text config) :: later)
    (hv : s.buf.load g.val = some v) :
    step s = .next (State.answer { s with host := later } .ok (some v)) := by
  have index : (BitVec.ofNat 4 g.val).toNat = g.val := Nat.mod_eq_of_lt (by omega)
  rw [step_present hhost, presentInput_request (decodeRequest_readSegments g text config)]
  refine exec_readSegments_in (s := { s with host := later }) hm hl (index.symm ▸ g.isLt : _ < 9) ?_
  rw [index]
  exact hv

/-- Settles O36: the handle's store is done when its step ends, so the load of the next request finds it. -/
theorem handleStoreIsSeenByTheNextRead : Obligations.HandleStoreIsSeenByTheNextRead := by
  unfold Obligations.HandleStoreIsSeenByTheNextRead
  intro g v text config cfg s later hm hl hhost
  exact ⟨_, _, step_handleStore_init hl hhost g.isLt,
    step_readSegments (g := g) hm hl rfl (load_store_same s.buf g.val v), rfl, rfl⟩

/-- Settles O49: reset is the state after power-on but for the parameters and the two agents' lists. -/
theorem hardResetRestoresTheBlock : Obligations.HardResetRestoresTheBlock := by
  unfold Obligations.HardResetRestoresTheBlock
  intro s later hhost
  have run : step s = hardReset { s with host := later } := by simp only [step, hhost, performAction]
  exact ⟨_, run, rfl, load_nil, rfl, rfl, rfl, rfl, rfl, rfl, rfl, rfl, rfl⟩

end Sys2Proof.Machine
end

section
/-! PROOFS of the other family, V: what ends or leaves the text of `WRITE_STRING` (spec 30_encoding.md R101,
R102), in every state and under every concurrent mutator; the failures of `INITIALIZE` (44_lifecycle.md R230);
and that no instruction reads an earlier answer (10_state.md R26). -/

namespace Sys2Proof.Machine

/-! ## Texts that render alike -/

/-- Past the ninth grid the rest of the text is dropped. Spec 30_encoding.md R102. -/
theorem renderText_of_nine_le (text : List Byte) {cur : Nat} (h : 9 ≤ cur) (s : State) :
    renderText text cur s = .next { s with cur := some cur } := by
  cases text with
  | nil => rfl
  | cons c rest => simp only [renderText, dif_neg (Nat.not_lt.2 h)]

/-- The cursor is written before it is read. Spec 42_buffer_ops.md R162. -/
theorem renderText_setCur (text : List Byte) (cur : Nat) (x : Option Nat) (s : State) :
    renderText text cur { s with cur := x } = renderText text cur s := by
  cases text <;> rfl

/-- What the rest of a text does is asked at the cursor after the character only. -/
theorem renderText_cons_congr {c : Byte} {rest rest' : List Byte} {cur : Nat}
    (hglyph : (∃ sym, charClass c = .glyph sym) → renderText rest (cur + 1) = renderText rest' (cur + 1))
    (hother : (∀ sym, charClass c ≠ .glyph sym) → renderText rest cur = renderText rest' cur) :
    renderText (c :: rest) cur = renderText (c :: rest') cur := by
  funext s
  simp only [renderText]
  split
  · cases hc : charClass c with
    | finish => rfl
    | glyph sym => simp only [hglyph ⟨sym, hc⟩]
    | point => simp only [hother (by simp [hc])]
    | ignored => simp only [hother (by simp [hc])]
  · rfl

theorem exec_writeString_congr {text text' : List Byte} (h : renderText text 0 = renderText text' 0) (s : State) :
    exec (.writeString text) s = exec (.writeString text') s := by
  show execWriteString text s = execWriteString text' s
  simp only [execWriteString, h]

/-- The grid-advancing characters, as the statement of R102 lists them. -/
def advances (c : Byte) : Bool := decide (c = 0x20#8 ∨ c = 0x2D#8 ∨ (0x30 ≤ c.toNat ∧ c.toNat ≤ 0x39))

theorem advances_iff_glyph (c : Byte) : advances c = true ↔ ∃ sym, charClass c = .glyph sym := by
  obtain ⟨h, rfl⟩ | ⟨h, -, hc⟩ | ⟨h, rfl⟩ | ⟨h, -, -, hc⟩ := charClass_cases c
  · simp [advances, h]
  · simp only [h, iff_true, advances, decide_eq_true_eq]
    tauto
  · simp [advances, h]
  · simp only [h, reduceCtorEq, exists_false, iff_false, advances, decide_eq_true_eq]
    tauto

theorem renderText_append_of_nine {text : List Byte} (more : List Byte) {cur : Nat}
    (h : 9 ≤ cur + text.countP advances) : renderText (text ++ more) cur = renderText text cur := by
  induction text generalizing cur with
  | nil =>
    have hcur : 9 ≤ cur := h
    funext s
    rw [renderText_of_nine_le _ hcur, renderText_of_nine_le _ hcur]
  | cons c rest ih =>
    refine renderText_cons_congr (fun hglyph => ih ?_) fun hother => ih ?_
    · rw [List.countP_cons_of_pos ((advances_iff_glyph c).2 hglyph)] at h
      omega
    · have hnot : ¬ advances c = true := fun hc =>
        have ⟨sym, hsym⟩ := (advances_iff_glyph c).1 hc
        hother sym hsym
      rwa [List.countP_cons_of_neg hnot] at h

/-- Settles O29, by induction on the text: at the ninth character that advances the cursor is 9. -/
theorem writeStringDropsWhatFollowsNineGlyphs : Obligations.WriteStringDropsWhatFollowsNineGlyphs := by
  unfold Obligations.WriteStringDropsWhatFollowsNineGlyphs
  intro text more s h
  have h : 9 ≤ text.countP advances := h
  exact exec_writeString_congr (renderText_append_of_nine more (by omega)) s

/-- Texts that render alike at every cursor do so behind any text. -/
theorem renderText_append_congr {text text' : List Byte} (h : ∀ cur, renderText text cur = renderText text' cur)
    (before : List Byte) (cur : Nat) : renderText (before ++ text) cur = renderText (before ++ text') cur := by
  induction before generalizing cur with
  | nil => exact h cur
  | cons c rest ih => exact renderText_cons_congr (fun _ => ih (cur + 1)) fun _ => ih cur

theorem renderText_skips {c : Byte} (hc : charClass c = .ignored) (rest : List Byte) (cur : Nat) :
    renderText (c :: rest) cur = renderText rest cur := by
  funext s
  rcases Nat.lt_or_ge cur 9 with hcur | hcur
  · rw [renderText_ignored hc rest hcur, renderText_setCur]
  · rw [renderText_of_nine_le _ hcur, renderText_of_nine_le _ hcur]

theorem renderText_nul_eq_nil (rest : List Byte) (cur : Nat) :
    renderText (0x00#8 :: rest) cur = renderText [] cur :=
  funext (renderText_nul rest cur)

theorem charClass_ignored {c : Byte} (hlisted : c ∉ [0x00#8, 0x20#8, 0x2D#8, 0x2E#8])
    (hdigit : ¬ (0x30 ≤ c.toNat ∧ c.toNat ≤ 0x39)) : charClass c = .ignored := by
  simp only [List.mem_cons, List.not_mem_nil, or_false, not_or] at hlisted
  obtain ⟨hnul, hspace, hdash, hpoint⟩ := hlisted
  obtain ⟨-, h⟩ | ⟨-, -, h⟩ | ⟨-, h⟩ | ⟨h, -⟩ := charClass_cases c
  · exact absurd h hnul
  · rcases h with h | h | h
    · exact absurd h hdigit
    · exact absurd h hdash
    · exact absurd h hspace
  · exact absurd h hpoint
  · exact h

/-- Settles O30: a skipped byte renders like nothing and a NUL like the end, behind any text. -/
theorem writeStringSkipsOthersAndStopsAtNul : Obligations.WriteStringSkipsOthersAndStopsAtNul := by
  unfold Obligations.WriteStringSkipsOthersAndStopsAtNul
  intro before after c s
  refine ⟨fun hlisted hdigit => ?_, ?_⟩
  · have skips := renderText_skips (charClass_ignored hlisted hdigit) after
    exact exec_writeString_congr (renderText_append_congr skips before 0) s
  · have stops := renderText_append_congr (renderText_nul_eq_nil after) before 0
    rw [List.append_nil] at stops
    exact exec_writeString_congr stops s

/-! ## `INITIALIZE` that fails -/

theorem applyConfig_invalidParam {c : DriverConfig} {s : State} (hm : s.mutator = [])
    (h : c.clockHz = 0#32 ∨ c.settleUs = 0#32) : applyConfig c s = .next (s.answer .invalidParam none) := by
  rw [applyConfig, if_pos h]
  exact respond_quiet .bars .invalidParam none hm

theorem applyConfig_hardwareError {c : DriverConfig} {s : State} (hm : s.mutator = [])
    (hclock : c.clockHz ≠ 0#32) (hsettle : c.settleUs ≠ 0#32) (haccept : transportAccepts s.params c = false) :
    applyConfig c s = .next (s.answer .hardwareError none) := by
  rw [applyConfig, if_neg (not_or.2 ⟨hclock, hsettle⟩), if_pos haccept]
  exact respond_quiet .bars .hardwareError none hm

/-- Settles O19: outside `INIT` the request is `applyConfig`, whose two checks come before any change. -/
theorem initializeFailsWithNothingDone : Obligations.InitializeFailsWithNothingDone := by
  unfold Obligations.InitializeFailsWithNothingDone
  intro arg s c hm hlife hc
  have run : exec (.initializeBlock arg) s = applyConfig c s := by
    rw [exec_initializeBlock_not_init arg hlife, hc]
    rfl
  rw [run]
  exact ⟨applyConfig_invalidParam hm, applyConfig_hardwareError hm⟩

/-! ## Earlier answers -/

/-- The states differ at most in the outputs that stand on the ports. -/
def EqButOutputs (s t : State) : Prop := ∃ r out, t = { s with response := r, portOut := out }

/-- An answer overwrites the response and a combinational port its output, each with a value that does not come
from either; every other update leaves both alone. -/
theorem eqButOutputs_unread : Unread EqButOutputs where
  life := by rintro s _ ⟨r, out, rfl⟩; rfl
  buf := by rintro s _ ⟨r, out, rfl⟩; rfl
  latch := by rintro s _ ⟨r, out, rfl⟩; rfl
  txOwned := by rintro s _ ⟨r, out, rfl⟩; rfl
  params := by rintro s _ ⟨r, out, rfl⟩; rfl
  mutator := by rintro s _ ⟨r, out, rfl⟩; rfl
  afterTurn := by rintro s _ ⟨r, out, rfl⟩; exact ⟨r, out, rfl⟩
  setCell g v := by rintro ⟨r, out, rfl⟩; exact ⟨r, out, rfl⟩
  setCur cur := by rintro ⟨r, out, rfl⟩; exact ⟨r, out, rfl⟩
  setLife life := by rintro ⟨r, out, rfl⟩; exact ⟨r, out, rfl⟩
  startTurn g := by rintro ⟨r, out, rfl⟩; exact ⟨r, out, rfl⟩
  setPhase ph := by rintro ⟨r, out, rfl⟩; exact ⟨r, out, rfl⟩
  pulse f := by rintro ⟨r, out, rfl⟩; exact ⟨r, out, rfl⟩
  settle us := by rintro ⟨r, out, rfl⟩; exact ⟨r, out, rfl⟩
  answer st rd := by rintro ⟨r, out, rfl⟩; exact ⟨_, out, rfl⟩
  takeTransport := by rintro s _ ⟨r, out, rfl⟩; exact ⟨r, out, rfl⟩
  releaseTransport := by rintro s _ ⟨r, out, rfl⟩; exact ⟨r, out, rfl⟩
  present out' := by rintro ⟨r, out, rfl⟩; exact ⟨r, _, rfl⟩

/-- Settles O57: two runs from states that differ at most in the standing outputs end alike, the states they go
on with differing at most in them too. -/
theorem noInstructionReadsAnEarlierResponse : Obligations.NoInstructionReadsAnEarlierResponse := by
  unfold Obligations.NoInstructionReadsAnEarlierResponse
  intro i s r out
  have alike : Alike EqButOutputs (exec i s) (exec i { s with response := r, portOut := out }) :=
    eqButOutputs_unread.respects_exec i ⟨r, out, rfl⟩
  generalize exec i s = o, exec i { s with response := r, portOut := out } = o' at alike
  cases alike with
  | next h =>
    obtain ⟨r', out', rfl⟩ := h
    exact ⟨r', out', rfl⟩
  | fault e => rfl
  | refused e => rfl

end Sys2Proof.Machine
end

section
/-! PROOFS of the other family, VI: the interleaving points of a request. A request that goes on takes one entry of
the mutator's list for each (`Turns`; spec 20_memory.md R66, R70), and where stores are barred each of them is
empty (R71). From a state that the invariant allows a request only goes on or meets a barred store (`Smooth`;
41_transport.md R140), so a barred store at any of its points is refused. -/

namespace Sys2Proof.Machine

/-! ## Points taken -/

/-- `t` is reached from `s` past `n` interleaving points of a request with that gate. -/
structure Turns (gate : Gate) (n : Nat) (s t : State) : Prop where
  mutator : t.mutator = s.mutator.drop n
  empty : ¬ s.storesAllowed gate → ∀ ws ∈ s.mutator.take n, ws = []
  allowed : t.storesAllowed gate ↔ s.storesAllowed gate

theorem Turns.trans {gate : Gate} {n m : Nat} {s t u : State} (h : Turns gate n s t) (k : Turns gate m t u) :
    Turns gate (n + m) s u where
  mutator := by rw [k.mutator, h.mutator, List.drop_drop]
  empty hb ws hws := by
    rw [List.take_add, List.mem_append, ← h.mutator] at hws
    exact hws.elim (h.empty hb ws) (k.empty (mt h.allowed.1 hb) ws)
  allowed := k.allowed.trans h.allowed

/-- An update of no cell access: it leaves the mutator's list and what the gate reads. -/
theorem Turns.of_eq {gate : Gate} {s t : State} (hm : t.mutator = s.mutator)
    (ha : t.storesAllowed gate ↔ s.storesAllowed gate) : Turns gate 0 s t :=
  ⟨hm, by simp, ha⟩

/-- A further update of no cell access. -/
theorem Turns.update {gate : Gate} {n : Nat} {s t u : State} (h : Turns gate n s t) (hm : u.mutator = t.mutator)
    (ha : u.storesAllowed gate ↔ t.storesAllowed gate) : Turns gate n s u :=
  h.trans (.of_eq hm ha)

/-- Whenever it goes on, the operation takes `n` interleaving points. -/
def Takes (gate : Gate) (n : Nat) (f : State → Res State) : Prop :=
  ∀ ⦃s t : State⦄, f s = .next t → Turns gate n s t

theorem Takes.andThen {gate : Gate} {n m : Nat} {f k : State → Res State} (hf : Takes gate n f)
    (hk : Takes gate m k) : Takes gate (n + m) fun s => Machine.andThen (f s) k := by
  intro s t h
  obtain ⟨u, hu, ht⟩ := andThen_eq_next.1 h
  exact (hf hu).trans (hk ht)

theorem takes_next (gate : Gate) : Takes gate 0 .next := by
  intro s t h
  cases h
  exact .of_eq rfl .rfl

theorem takes_mutatorTurn (gate : Gate) : Takes gate 1 (mutatorTurn gate) := by
  intro s t h
  obtain rfl := mutatorTurn_next h
  refine ⟨List.drop_one.symm, fun hb ws hws => ?_, .rfl⟩
  have hempty := (mutatorTurn_next_of_barred h hb).1
  cases hm : s.mutator with
  | nil => simp [hm] at hws
  | cons ws' later => simp_all

theorem turns_cellLoad {gate : Gate} {g : GridIndex} {s : State} {r : Byte × State}
    (h : cellLoad gate g s = .next r) : Turns gate 1 s r.2 := by
  obtain ⟨u, hu, hr⟩ := andThen_eq_next.1 h
  split at hr
  · cases hr
    exact takes_mutatorTurn gate hu
  · cases hr

theorem takes_cellStore (gate : Gate) (g : GridIndex) (v : Byte) : Takes gate 1 (cellStore gate g v) := by
  intro s t h
  obtain ⟨u, hu, ht⟩ := andThen_eq_next.1 h
  cases ht
  exact (takes_mutatorTurn gate hu).update rfl .rfl

theorem takes_storeEach (gate : Gate) (v : Byte) (gs : List GridIndex) :
    Takes gate gs.length (storeEach gate v gs) := by
  induction gs with
  | nil => exact takes_next gate
  | cons g rest ih =>
    rw [List.length_cons, Nat.add_comm]
    exact (takes_cellStore gate g v).andThen ih

theorem turns_transmit (gate : Gate) {f : Frame} {s t : State} (h : transmit f s = .next t) :
    Turns gate 0 s t := by
  obtain ⟨-, -, rfl⟩ := transmit_next h
  exact .of_eq rfl .rfl

theorem takes_sweepGrid (gate : Gate) (settleUs : U32) (g : GridIndex) :
    Takes gate 1 (sweepGrid gate settleUs g) := by
  intro s t h
  obtain ⟨⟨v, u⟩, hu, h⟩ := andThen_eq_next.1 h
  obtain ⟨w, hw, h⟩ := andThen_eq_next.1 h
  cases h
  have started : Turns gate 0 s (s.startTurn g) := .of_eq rfl .rfl
  have sent : Turns gate 0 (u.setPhase .send) w := turns_transmit gate hw
  have sampled : Turns gate 1 s (u.setPhase .send) := (started.trans (turns_cellLoad hu)).update rfl .rfl
  exact (sampled.trans sent).update rfl .rfl

theorem takes_sweepGrids (gate : Gate) (settleUs : U32) (gs : List GridIndex) :
    Takes gate gs.length (sweepGrids gate settleUs gs) := by
  induction gs with
  | nil => exact takes_next gate
  | cons g rest ih =>
    rw [List.length_cons, Nat.add_comm]
    exact (takes_sweepGrid gate settleUs g).andThen ih

theorem takes_respond (gate : Gate) (st : Status) (rd : Option Byte) : Takes gate 1 (respond gate st rd) := by
  intro s t h
  obtain ⟨u, hu, ht⟩ := andThen_eq_next.1 h
  cases ht
  exact (takes_mutatorTurn gate hu).update rfl .rfl

/-! ### The body of `WRITE_STRING` -/

theorem renderText_glyph_eq {c : Byte} {sym : Symbol} (hc : charClass c = .glyph sym) (rest : List Byte)
    {cur : Nat} (hcur : cur < 9) (s : State) :
    renderText (c :: rest) cur s =
      andThen (cellStore .admits ⟨cur, hcur⟩ (segPattern s.params.segLut sym) { s with cur := some cur })
        (renderText rest (cur + 1)) := by
  simp only [renderText, dif_pos hcur, hc]

theorem renderText_point_eq (rest : List Byte) {cur : Nat} (hcur : cur + 1 < 9) (s : State) :
    renderText (0x2E#8 :: rest) (cur + 1) s =
      andThen (cellLoad .admits ⟨cur, Nat.lt_of_succ_lt hcur⟩ { s with cur := some (cur + 1) }) fun loaded =>
        andThen (cellStore .admits ⟨cur, Nat.lt_of_succ_lt hcur⟩ (loaded.1 ||| dotPattern) loaded.2)
          (renderText rest (cur + 1)) := by
  have point : charClass 0x2E#8 = .point := rfl
  simp only [renderText, dif_pos hcur, point, previousGrid_succ (Nat.lt_of_succ_lt hcur)]

section
variable {c : Byte} {cur : Nat} (rest : List Byte)

theorem textAccesses_nine (text : List Byte) : textAccesses text 9 = 0 := by
  cases text <;> simp [textAccesses]

theorem textAccesses_nul : textAccesses (0x00#8 :: rest) cur = 0 := by
  simp [textAccesses]

theorem textAccesses_glyph (hc : c ≠ 0x00#8) (hcur : cur < 9)
    (hglyph : (0x30 ≤ c.toNat ∧ c.toNat ≤ 0x39) ∨ c = 0x2D#8 ∨ c = 0x20#8) :
    textAccesses (c :: rest) cur = 1 + textAccesses rest (cur + 1) := by
  rw [textAccesses, if_neg (by simp [hc, hcur.ne]), if_pos hglyph]

theorem textAccesses_point_zero : textAccesses (0x2E#8 :: rest) 0 = textAccesses rest 0 := by
  simp [textAccesses]

theorem textAccesses_point_succ (hcur : cur + 1 < 9) :
    textAccesses (0x2E#8 :: rest) (cur + 1) = 2 + textAccesses rest (cur + 1) := by
  simp [textAccesses, hcur.ne]

theorem textAccesses_ignored (hc : c ≠ 0x00#8) (hcur : cur < 9) (hpoint : c ≠ 0x2E#8)
    (hglyph : ¬ ((0x30 ≤ c.toNat ∧ c.toNat ≤ 0x39) ∨ c = 0x2D#8 ∨ c = 0x20#8)) :
    textAccesses (c :: rest) cur = textAccesses rest cur := by
  rw [textAccesses, if_neg (by simp [hc, hcur.ne]), if_neg hglyph, if_neg (by simp [hpoint])]

end

theorem takes_end_of_text (cur : Nat) : Takes .admits 0 fun s => .next { s with cur := some cur } := by
  intro s t h
  cases h
  exact .of_eq rfl .rfl

theorem turns_setCur (s : State) (cur : Option Nat) : Turns .admits 0 s { s with cur := cur } := .of_eq rfl .rfl

theorem takes_renderText (text : List Byte) {cur : Nat} (hcur : cur ≤ 9) :
    Takes .admits (textAccesses text cur) (renderText text cur) := by
  induction text generalizing cur with
  | nil => exact takes_end_of_text cur
  | cons c rest ih =>
    intro s t h
    obtain rfl | hlt := hcur.eq_or_lt
    · rw [textAccesses_nine]
      rw [renderText_full] at h
      exact takes_end_of_text 9 h
    · obtain ⟨-, rfl⟩ | ⟨⟨sym, hsym⟩, hnul, hglyph⟩ | ⟨-, rfl⟩ | ⟨hignored, hnul, hpoint, hglyph⟩ :=
        charClass_cases c
      · rw [textAccesses_nul]
        rw [renderText_nul] at h
        exact takes_end_of_text cur h
      · rw [textAccesses_glyph rest hnul hlt hglyph]
        rw [renderText_glyph_eq hsym rest hlt] at h
        obtain ⟨u, hu, ht⟩ := andThen_eq_next.1 h
        exact ((turns_setCur s _).trans (takes_cellStore _ _ _ hu)).trans (ih hlt ht)
      · cases cur with
        | zero =>
          rw [textAccesses_point_zero]
          rw [renderText_point_zero, renderText_setCur] at h
          exact ih hcur h
        | succ cur =>
          rw [textAccesses_point_succ rest hlt]
          rw [renderText_point_eq rest hlt] at h
          obtain ⟨⟨v, u⟩, hu, h⟩ := andThen_eq_next.1 h
          obtain ⟨w, hw, ht⟩ := andThen_eq_next.1 h
          have loaded := (turns_setCur s _).trans (turns_cellLoad hu)
          exact (loaded.trans (takes_cellStore _ _ _ hw)).trans (ih hcur ht)
      · rw [textAccesses_ignored rest hnul hlt hpoint hglyph]
        rw [renderText_ignored hignored rest hlt, renderText_setCur] at h
        exact ih hcur h

/-! ### The requests -/

theorem turns_whenInit {gate : Gate} {k : DriverConfig → State → Res State} {n : Nat} {s t : State}
    (hk : ∀ cfg, s.life = .init cfg → k cfg s = .next t → Turns gate n s t)
    (h : whenInit gate k s = .next t) : Turns gate (s.pointsInInit n) s t := by
  unfold whenInit at h
  unfold State.pointsInInit
  cases hl : s.life with
  | init cfg =>
    simp only [hl] at h
    exact hk cfg hl h
  | uninit =>
    simp only [hl] at h
    exact takes_respond _ _ _ h
  | deinit =>
    simp only [hl] at h
    exact takes_respond _ _ _ h

theorem turns_whenGrid {gate : Gate} {g : BitVec 4} {k : GridIndex → State → Res State} {n : Nat} {s t : State}
    (hk : ∀ grid, k grid s = .next t → Turns gate n s t) (h : whenGrid gate g k s = .next t) :
    Turns gate (if g.toNat ≤ 8 then n else 1) s t := by
  split
  · rename_i hg
    rw [whenGrid_in gate k s (Nat.lt_succ_of_le hg)] at h
    exact hk _ h
  · rename_i hg
    rw [whenGrid_out gate k s (Nat.lt_of_not_le hg)] at h
    exact takes_respond _ _ _ h

theorem turns_applyConfig {c : DriverConfig} {s t : State} (h : applyConfig c s = .next t) :
    Turns .bars (if c.clockHz ≠ 0#32 ∧ c.settleUs ≠ 0#32 ∧ transportAccepts s.params c = true then 10 else 1)
      s t := by
  have barred (u v : State) : u.storesAllowed .bars ↔ v.storesAllowed .bars :=
    iff_of_false (not_storesAllowed_bars u) (not_storesAllowed_bars v)
  unfold applyConfig at h
  split at h
  · rename_i hparam
    rw [if_neg (by tauto)]
    exact takes_respond _ _ _ h
  · rename_i hparam
    obtain ⟨hclock, hsettle⟩ := not_or.1 hparam
    split at h
    · rename_i haccept
      rw [if_neg (by simp [haccept])]
      exact takes_respond _ _ _ h
    · rename_i haccept
      rw [if_pos ⟨hclock, hsettle, by simpa using haccept⟩]
      obtain ⟨u, hu, h⟩ := andThen_eq_next.1 h
      have taken : Turns .bars 0 s s.takeTransport := .of_eq rfl (barred _ _)
      have applied : Turns .bars 0 u { u with life := .init c } := .of_eq rfl (barred _ _)
      exact (taken.trans (takes_storeEach _ _ _ hu)).trans (applied.trans (takes_respond _ _ _ h))

theorem turns_execInitialize {arg : Option DriverConfig} {s t : State} (h : execInitialize arg s = .next t) :
    Turns .bars (s.startPoints (arg.getD (defaultCfg s.params))) s t := by
  unfold execInitialize at h
  unfold State.startPoints
  cases hl : s.life with
  | init cfg =>
    simp only [hl] at h
    exact takes_respond _ _ _ h
  | uninit =>
    simp only [hl] at h
    exact turns_applyConfig h
  | deinit =>
    simp only [hl] at h
    exact turns_applyConfig h

theorem turns_execDeinitialize {s t : State} (h : execDeinitialize s = .next t) :
    Turns .bars (s.pointsInInit 19) s t := by
  refine turns_whenInit (fun cfg _ h => ?_) h
  obtain ⟨u, hu, h⟩ := andThen_eq_next.1 h
  obtain ⟨v, hv, h⟩ := andThen_eq_next.1 h
  have released : Turns .bars 0 v v.releaseTransport :=
    .of_eq rfl (iff_of_false (not_storesAllowed_bars _) (not_storesAllowed_bars _))
  exact ((takes_storeEach _ _ _ hu).trans (takes_sweepGrids _ _ _ hv)).trans
    (released.trans (takes_respond _ _ _ h))

theorem turns_execWriteSegments {g : BitVec 4} {p : Byte} {s t : State}
    (h : execWriteSegments g p s = .next t) :
    Turns .admits (s.pointsInInit (if g.toNat ≤ 8 then 2 else 1)) s t := by
  refine turns_whenInit (fun _ _ => turns_whenGrid fun grid h => ?_) h
  exact ((takes_cellStore _ grid p).andThen (takes_respond _ _ _)) h

theorem turns_execWriteDigit {g : BitVec 4} {d : Byte} {s t : State} (h : execWriteDigit g d s = .next t) :
    Turns .admits (s.pointsInInit (if g.toNat ≤ 8 ∧ d.toNat ≤ 9 then 2 else 1)) s t := by
  have points : (if g.toNat ≤ 8 ∧ d.toNat ≤ 9 then 2 else 1) =
      if g.toNat ≤ 8 then (if d.toNat ≤ 9 then 2 else 1) else 1 := by split <;> simp_all
  rw [points]
  refine turns_whenInit (fun _ _ => turns_whenGrid fun grid h => ?_) h
  split
  · rename_i hd
    obtain ⟨sym, hsym⟩ := exists_symbol_of_digit hd
    rw [digitOperand_eq_symbolOfCode hd, hsym] at h
    exact ((takes_cellStore _ grid _).andThen (takes_respond _ _ _)) h
  · rename_i hd
    rw [digitOperand_eq_none (Nat.lt_of_not_le hd)] at h
    exact takes_respond _ _ _ h

theorem turns_execWriteString {text : List Byte} {s t : State} (h : execWriteString text s = .next t) :
    Turns .admits (s.pointsInInit (9 + textAccesses text 0 + 1)) s t := by
  refine turns_whenInit (fun _ _ h => ?_) h
  rw [Nat.add_assoc]
  exact ((takes_storeEach _ _ allGrids).andThen
    ((takes_renderText text (Nat.zero_le 9)).andThen (takes_respond _ _ _))) h

/-- `CLEAR` and `FILL`. -/
theorem turns_execFill {p : Byte} {s t : State} (h : execFill p s = .next t) :
    Turns .admits (s.pointsInInit 10) s t :=
  turns_whenInit (fun _ _ h => ((takes_storeEach _ p allGrids).andThen (takes_respond _ _ _)) h) h

theorem turns_execReadSegments {g : BitVec 4} {s t : State} (h : execReadSegments g s = .next t) :
    Turns .admits (s.pointsInInit (if g.toNat ≤ 8 then 2 else 1)) s t := by
  refine turns_whenInit (fun _ _ => turns_whenGrid fun grid h => ?_) h
  obtain ⟨⟨v, u⟩, hu, h⟩ := andThen_eq_next.1 h
  exact (turns_cellLoad hu).trans (takes_respond _ _ _ h)

theorem turns_execRefresh {s t : State} (h : execRefresh s = .next t) :
    Turns .admits (s.pointsInInit 10) s t :=
  turns_whenInit (fun _ _ h => ((takes_sweepGrids _ _ allGrids).andThen (takes_respond _ _ _)) h) h

theorem turns_execSendCommand {c : Byte} {s t : State} (h : execSendCommand c s = .next t) :
    Turns .admits 1 s t := by
  have points : s.pointsInInit 1 = 1 := by
    unfold State.pointsInInit
    split <;> rfl
  rw [← points]
  refine turns_whenInit (fun _ _ h => ?_) h
  split at h
  · obtain ⟨u, hu, h⟩ := andThen_eq_next.1 h
    exact (turns_transmit _ hu).trans (takes_respond _ _ _ h)
  · exact takes_respond _ _ _ h

/-- Spec 20_memory.md R71: `INITIALIZE` and `DEINITIALIZE` bar concurrent stores. -/
def requestGate (i : Instr) : Gate :=
  match i with
  | .initializeBlock _ | .deinitialize => .bars
  | _ => .admits

theorem exec_turns {i : Instr} (hi : isRequest i = true) {s t : State} (h : exec i s = .next t) :
    Turns (requestGate i) (interleavingPoints i s) s t := by
  cases i with
  | initializeBlock arg => exact turns_execInitialize h
  | deinitialize => exact turns_execDeinitialize h
  | writeSegments g p => exact turns_execWriteSegments h
  | writeDigit g d => exact turns_execWriteDigit h
  | writeString text => exact turns_execWriteString h
  | clear => exact turns_execFill (p := blankPattern) h
  | fill p => exact turns_execFill (p := p) h
  | readSegments g => exact turns_execReadSegments h
  | refresh => exact turns_execRefresh h
  | sendCommand c => exact turns_execSendCommand h
  | _ => cases hi

/-- Settles O59: each access of a cell and the answer take one entry of the list, and nothing else takes any. -/
theorem requestsTakeTheirInterleavingPoints : Obligations.RequestsTakeTheirInterleavingPoints := by
  unfold Obligations.RequestsTakeTheirInterleavingPoints
  exact fun i s t hi h => (exec_turns hi h).mutator

/-! ## Going on, or meeting a barred store -/

/-- The outcome is a result with `Q`, or the refusal of a concurrent store. -/
def Smooth {α : Type} (Q : α → Prop) (o : Res α) : Prop :=
  (∃ a, o = .next a ∧ Q a) ∨ o = .refused .concurrentStoreBarred

theorem smooth_next {α : Type} {Q : α → Prop} {a : α} (h : Q a) : Smooth Q (.next a) := .inl ⟨a, rfl, h⟩

theorem Smooth.andThen {α β : Type} {Q : α → Prop} {P : β → Prop} {o : Res α} {k : α → Res β}
    (h : Smooth Q o) (hk : ∀ a, Q a → Smooth P (k a)) : Smooth P (Machine.andThen o k) := by
  obtain ⟨a, rfl, ha⟩ | rfl := h
  · exact hk a ha
  · exact .inr rfl

/-- What a frame and a sample need: every cell has a value, the transport is owned and the latch is low. -/
structure State.Ready (s : State) : Prop where
  complete : s.buf.complete
  owned : s.txOwned = true
  low : s.latch = .low

theorem BufOnly.ready {s t : State} (h : BufOnly s t) (hs : s.Ready) : t.Ready where
  complete := h.complete hs.complete
  owned := by rw [h.eq]; exact hs.owned
  low := by rw [h.eq]; exact hs.low

theorem smooth_mutatorTurn (gate : Gate) (s : State) : Smooth (BufOnly s) (mutatorTurn gate s) :=
  (mutatorTurn_cases gate s).imp (fun h => ⟨_, h, afterTurn_bufOnly s⟩) id

theorem smooth_cellStore (gate : Gate) (g : GridIndex) (v : Byte) (s : State) :
    Smooth (BufOnly s) (cellStore gate g v s) :=
  (smooth_mutatorTurn gate s).andThen fun u hu => smooth_next (hu.trans (setCell_bufOnly u g v))

theorem smooth_storeEach (gate : Gate) (v : Byte) (gs : List GridIndex) (s : State) :
    Smooth (BufOnly s) (storeEach gate v gs s) := by
  have smooth : ∀ u, BufOnly s u → Smooth (BufOnly s) (storeEach gate v gs u) := by
    induction gs with
    | nil => exact fun u hu => smooth_next hu
    | cons g rest ih =>
      exact fun u hu => (smooth_cellStore gate g v u).andThen fun w hw => ih w (hu.trans hw)
  exact smooth s (.refl s)

theorem smooth_cellLoad (gate : Gate) (g : GridIndex) {s : State} (hs : s.Ready) :
    Smooth (fun r => r.2.Ready) (cellLoad gate g s) := by
  refine (smooth_mutatorTurn gate s).andThen fun u hu => ?_
  have hu := hu.ready hs
  obtain ⟨v, hv⟩ := Option.isSome_iff_exists.1 (hu.complete g)
  rw [hv]
  exact smooth_next hu

theorem smooth_transmit (f : Frame) {s : State} (hs : s.Ready) : Smooth State.Ready (transmit f s) := by
  rw [transmit_ready f hs.owned hs.low]
  exact smooth_next ⟨hs.complete, hs.owned, rfl⟩

theorem smooth_sweepGrids (gate : Gate) (settleUs : U32) (gs : List GridIndex) {s : State} (hs : s.Ready) :
    Smooth State.Ready (sweepGrids gate settleUs gs s) := by
  induction gs generalizing s with
  | nil => exact smooth_next hs
  | cons g rest ih =>
    refine Smooth.andThen (Q := State.Ready) ?_ fun u hu => ih hu
    refine (smooth_cellLoad gate g (s := s.startTurn g) ⟨hs.complete, hs.owned, hs.low⟩).andThen fun r hr => ?_
    have sending : (r.2.setPhase .send).Ready := ⟨hr.complete, hr.owned, hr.low⟩
    exact (smooth_transmit _ sending).andThen fun u hu => smooth_next ⟨hu.complete, hu.owned, hu.low⟩

theorem smooth_renderText (text : List Byte) (cur : Nat) {s : State} (hs : s.Ready) :
    Smooth State.Ready (renderText text cur s) := by
  have setCur {s : State} (hs : s.Ready) (cur : Option Nat) : State.Ready { s with cur := cur } :=
    ⟨hs.complete, hs.owned, hs.low⟩
  induction text generalizing cur s with
  | nil => exact smooth_next (setCur hs _)
  | cons c rest ih =>
    have hs := setCur hs (some cur)
    simp only [renderText]
    split
    · cases charClass c with
      | finish => exact smooth_next hs
      | glyph sym => exact (smooth_cellStore .admits _ _ _).andThen fun u hu => ih _ (hu.ready hs)
      | point =>
        cases previousGrid cur with
        | some g =>
          refine (smooth_cellLoad .admits g hs).andThen fun r hr => ?_
          exact (smooth_cellStore .admits g _ _).andThen fun u hu => ih _ (hu.ready hr)
        | none => exact ih _ hs
      | ignored => exact ih _ hs
    · exact smooth_next hs

/-- The end of every request. -/
theorem smooth_respond (gate : Gate) (st : Status) (rd : Option Byte) (s : State) :
    Smooth (fun _ => True) (respond gate st rd s) :=
  (smooth_mutatorTurn gate s).andThen fun _ _ => smooth_next trivial

theorem smooth_whenInit (gate : Gate) {k : DriverConfig → State → Res State} {s : State}
    (hk : ∀ cfg, s.life = .init cfg → Smooth (fun _ => True) (k cfg s)) :
    Smooth (fun _ => True) (whenInit gate k s) := by
  by_cases hl : ∃ cfg, s.life = .init cfg
  · obtain ⟨cfg, hl⟩ := hl
    rw [whenInit_init gate k hl]
    exact hk cfg hl
  · rw [whenInit_not gate k (not_exists.1 hl)]
    exact smooth_respond _ _ _ _

theorem smooth_whenGrid (gate : Gate) (g : BitVec 4) {k : GridIndex → State → Res State} {s : State}
    (hk : ∀ grid, Smooth (fun _ => True) (k grid s)) : Smooth (fun _ => True) (whenGrid gate g k s) := by
  unfold whenGrid
  split
  · exact hk _
  · exact smooth_respond _ _ _ _

theorem smooth_execInitialize (arg : Option DriverConfig) (s : State) :
    Smooth (fun _ => True) (execInitialize arg s) := by
  have apply (c : DriverConfig) : Smooth (fun _ => True) (applyConfig c s) := by
    unfold applyConfig
    split
    · exact smooth_respond _ _ _ _
    · split
      · exact smooth_respond _ _ _ _
      · exact (smooth_storeEach _ _ _ _).andThen fun u _ => smooth_respond _ _ _ _
  unfold execInitialize
  split
  · exact smooth_respond _ _ _ _
  · exact apply _
  · exact apply _

/-- The requests that have no more than stores between their checks and their answer. -/
theorem smooth_storeEach_respond (gate : Gate) (v : Byte) (gs : List GridIndex) (st : Status) (s : State) :
    Smooth (fun _ => True) (andThen (storeEach gate v gs s) (respond gate st none)) :=
  (smooth_storeEach gate v gs s).andThen fun u _ => smooth_respond _ _ _ u

theorem smooth_cellStore_respond (gate : Gate) (g : GridIndex) (v : Byte) (st : Status) (s : State) :
    Smooth (fun _ => True) (andThen (cellStore gate g v s) (respond gate st none)) :=
  (smooth_cellStore gate g v s).andThen fun u _ => smooth_respond _ _ _ u

/-- `CLEAR` and `FILL`. -/
theorem smooth_execFill (p : Byte) (s : State) : Smooth (fun _ => True) (execFill p s) :=
  smooth_whenInit .admits fun _ _ => smooth_storeEach_respond _ _ _ _ _

theorem smooth_execWriteSegments (g : BitVec 4) (p : Byte) (s : State) :
    Smooth (fun _ => True) (execWriteSegments g p s) :=
  smooth_whenInit .admits fun _ _ => smooth_whenGrid .admits g fun _ => smooth_cellStore_respond _ _ _ _ _

theorem smooth_execWriteDigit (g : BitVec 4) (d : Byte) (s : State) :
    Smooth (fun _ => True) (execWriteDigit g d s) := by
  refine smooth_whenInit .admits fun _ _ => smooth_whenGrid .admits g fun grid => ?_
  split
  · exact smooth_cellStore_respond _ _ _ _ _
  · exact smooth_respond _ _ _ _

section
variable {s : State} (hs : ∀ cfg, s.life = .init cfg → s.Ready)
include hs

theorem smooth_execDeinitialize : Smooth (fun _ => True) (execDeinitialize s) := by
  refine smooth_whenInit .bars fun cfg hl => ?_
  refine (smooth_storeEach _ _ _ s).andThen fun u hu => ?_
  exact (smooth_sweepGrids _ _ _ (hu.ready (hs cfg hl))).andThen fun v _ => smooth_respond _ _ _ _

theorem smooth_execWriteString (text : List Byte) : Smooth (fun _ => True) (execWriteString text s) := by
  refine smooth_whenInit .admits fun cfg hl => ?_
  refine (smooth_storeEach _ _ _ s).andThen fun u hu => ?_
  exact (smooth_renderText text 0 (hu.ready (hs cfg hl))).andThen fun v _ => smooth_respond _ _ _ v

theorem smooth_execReadSegments (g : BitVec 4) : Smooth (fun _ => True) (execReadSegments g s) := by
  refine smooth_whenInit .admits fun cfg hl => smooth_whenGrid .admits g fun grid => ?_
  exact (smooth_cellLoad _ grid (hs cfg hl)).andThen fun r _ => smooth_respond _ _ _ _

theorem smooth_execRefresh : Smooth (fun _ => True) (execRefresh s) := by
  refine smooth_whenInit .admits fun cfg hl => ?_
  exact (smooth_sweepGrids _ _ _ (hs cfg hl)).andThen fun u _ => smooth_respond _ _ _ u

theorem smooth_execSendCommand (c : Byte) : Smooth (fun _ => True) (execSendCommand c s) := by
  refine smooth_whenInit .admits fun cfg hl => ?_
  split
  · exact (smooth_transmit _ (hs cfg hl)).andThen fun u _ => smooth_respond _ _ _ u
  · exact smooth_respond _ _ _ _

/-- From a state that the invariant allows, a request goes on or meets a barred store. -/
theorem smooth_exec {i : Instr} (hi : isRequest i = true) : Smooth (fun _ => True) (exec i s) := by
  cases i with
  | initializeBlock arg => exact smooth_execInitialize arg s
  | deinitialize => exact smooth_execDeinitialize hs
  | writeSegments g p => exact smooth_execWriteSegments g p s
  | writeDigit g d => exact smooth_execWriteDigit g d s
  | writeString text => exact smooth_execWriteString hs text
  | clear => exact smooth_execFill blankPattern s
  | fill p => exact smooth_execFill p s
  | readSegments g => exact smooth_execReadSegments hs g
  | refresh => exact smooth_execRefresh hs
  | sendCommand c => exact smooth_execSendCommand hs c
  | _ => cases hi

end

/-- Settles O46: such a request goes on or meets a barred store, and if it went on, all its points would have
been empty, which the point of the first store is not. -/
theorem concurrentStoresAreBarred : Obligations.ConcurrentStoresAreBarred := by
  unfold Obligations.ConcurrentStoresAreBarred
  intro i s k w ws later hi hm hk hbarred hready
  have barred : ¬ s.storesAllowed (requestGate i) := by
    rintro ⟨hgate, ⟨cfg, hl⟩, hconcurrent⟩
    rcases hbarred with habsent | hlife | ⟨arg, rfl⟩ | rfl
    · rw [hconcurrent] at habsent
      cases habsent
    · exact hlife cfg hl
    · cases hgate
    · cases hgate
  have first : w :: ws ∈ s.mutator.take (interleavingPoints i s) := by
    rw [hm, List.take_append, List.mem_append]
    right
    obtain ⟨d, hd⟩ := Nat.exists_eq_add_of_lt hk
    rw [hd, List.length_replicate, show k + d + 1 - k = d + 1 by omega]
    exact List.mem_cons_self
  have ready : ∀ cfg, s.life = .init cfg → s.Ready := fun cfg hl =>
    have ⟨complete, owned, low⟩ := hready cfg hl
    ⟨complete, owned, low⟩
  obtain ⟨t, ht, -⟩ | hrefused := smooth_exec ready hi
  · cases (exec_turns hi ht).empty barred _ first
  · exact hrefused

/-! ## The model's own stops -/

/-- The two wire frames. -/
def isFrame (i : Instr) : Bool :=
  match i with
  | .frameDisplay _ _ | .frameCmd _ => true
  | _ => false

/-- Only the link carries a frame. -/
theorem isFrame_of_decode {input : PortInput} {i : Instr} (hlink : ∀ f, input ≠ .link f)
    (h : decode input = .ok i) : isFrame i = false := by
  cases input with
  | request w text config =>
    obtain ⟨text', config', hencode⟩ := encode_decodeRequest h
    cases i with
    | frameDisplay g seg => cases hencode
    | frameCmd cmd => cases hencode
    | _ => rfl
  | encode sym =>
    cases h
    unfold decodeSymbol
    split <;> rfl
  | select g => cases h; rfl
  | pack bits => cases h; rfl
  | frame w => cases h; rfl
  | link f => exact absurd rfl (hlink f)

theorem Smooth.ne_fault {α : Type} {Q : α → Prop} {o : Res α} (h : Smooth Q o) (r : Fault) : o ≠ .fault r := by
  obtain ⟨a, rfl, -⟩ | rfl := h <;> simp

theorem Smooth.ne_cellHasNoValue {α : Type} {Q : α → Prop} {o : Res α} (h : Smooth Q o) :
    o ≠ .refused .cellHasNoValue := by
  obtain ⟨a, rfl, -⟩ | rfl := h <;> simp

theorem State.Inv.ready {s : State} (hs : s.Inv) (cfg : DriverConfig) (hl : s.life = .init cfg) : s.Ready :=
  have ⟨complete, low, owned, _⟩ := hs.whileInit cfg hl
  ⟨complete, owned, low⟩

/-- A combinational port presents its result, and a reserved instruction is refused. -/
theorem exec_port {i : Instr} (hi : isRequest i = false) (hframe : isFrame i = false) (s : State) :
    (∃ out, exec i s = .next (s.present out)) ∨ exec i s = .refused .reservedOp ∨
      exec i s = .refused .reservedSymbol := by
  cases i with
  | reservedOpAB low => exact .inr (.inl rfl)
  | reservedOpCF low => exact .inr (.inl rfl)
  | encodeReserved sym => exact .inr (.inr rfl)
  | encodeDigit0 | encodeDigit1 | encodeDigit2 | encodeDigit3 | encodeDigit4 | encodeDigit5 | encodeDigit6
  | encodeDigit7 | encodeDigit8 | encodeDigit9 | encodeDot | encodeDash | encodeBlank => exact .inl ⟨_, rfl⟩
  | select g =>
    cases h : selectGrid g with
    | some m => exact .inl ⟨_, exec_select_some h s⟩
    | none => exact .inl ⟨_, exec_select_none h s⟩
  | pack cmd mask seg => exact .inl ⟨_, rfl⟩
  | frame w => exact .inl ⟨_, rfl⟩
  | frameDisplay g seg => cases hframe
  | frameCmd cmd => cases hframe
  | _ => cases hi

theorem transmit_ne_refused (f : Frame) (s : State) (r : Refusal) : transmit f s ≠ .refused r := by
  unfold transmit
  split <;> simp

section
variable {s : State} (hs : ∀ cfg, s.life = .init cfg → s.Ready)
include hs

theorem exec_ne_fault {i : Instr} (hframe : isFrame i = false) (r : Fault) : exec i s ≠ .fault r := by
  cases hi : isRequest i with
  | true => exact (smooth_exec hs hi).ne_fault r
  | false => obtain ⟨out, h⟩ | h | h := exec_port hi hframe s <;> simp [h]

theorem exec_ne_cellHasNoValue (i : Instr) : exec i s ≠ .refused .cellHasNoValue := by
  cases hi : isRequest i with
  | true => exact (smooth_exec hs hi).ne_cellHasNoValue
  | false =>
    cases hframe : isFrame i with
    | true =>
      cases i with
      | frameDisplay g seg => exact transmit_ne_refused _ s _
      | frameCmd cmd => exact transmit_ne_refused _ s _
      | _ => cases hframe
    | false => obtain ⟨out, h⟩ | h | h := exec_port hi hframe s <;> simp [h]

theorem presentInput_ne_fault {input : PortInput} (hlink : ∀ f, input ≠ .link f) (r : Fault) :
    presentInput input s ≠ .fault r := by
  unfold presentInput
  split
  · rename_i i hdecode
    exact exec_ne_fault hs (isFrame_of_decode hlink hdecode) r
  · simp
  · simp

theorem presentInput_ne_cellHasNoValue (input : PortInput) :
    presentInput input s ≠ .refused .cellHasNoValue := by
  unfold presentInput
  split
  · exact exec_ne_cellHasNoValue hs _
  · simp
  · simp

theorem handleLoad_ne_cellHasNoValue (g : Nat) : handleLoad g s ≠ .refused .cellHasNoValue := by
  unfold handleLoad
  split
  · rename_i cfg hl
    split
    · rename_i hg
      obtain ⟨v, hv⟩ := Option.isSome_iff_exists.1 ((hs cfg hl).complete ⟨g, hg⟩)
      simp [show s.buf.load g = some v from hv]
    · simp
  · simp
  · simp

end

theorem handleLoad_ne_fault (g : Nat) (s : State) (r : Fault) : handleLoad g s ≠ .fault r := by
  unfold handleLoad
  repeat' split
  all_goals simp

theorem handleStore_ne_stop (g : Nat) (v : Byte) (s : State) (r : Fault) :
    handleStore g v s ≠ .fault r ∧ handleStore g v s ≠ .refused .cellHasNoValue := by
  unfold handleStore
  repeat' split
  all_goals simp

theorem readRData_ne_stop (s : State) (r : Fault) :
    readRData s ≠ .fault r ∧ readRData s ≠ .refused .cellHasNoValue := by
  unfold readRData
  split <;> simp

/-- Settles O52: under the invariant a request goes on or meets a barred store, only a frame on the link asks for
more, and a handle access finds a value. -/
theorem invariantRulesOutTheModelsOwnStops : Obligations.InvariantRulesOutTheModelsOwnStops := by
  unfold Obligations.InvariantRulesOutTheModelsOwnStops
  intro s hinv
  unfold step
  cases hhost : s.host with
  | nil => exact ⟨fun r _ => by simp, by simp⟩
  | cons a later =>
    have ready : ∀ cfg, s.life = .init cfg → State.Ready { s with host := later } := fun cfg hl =>
      have hs := hinv.ready cfg hl
      ⟨hs.complete, hs.owned, hs.low⟩
    cases a with
    | present input =>
      refine ⟨fun r hlink => presentInput_ne_fault ready (fun f hf => ?_) r,
        presentInput_ne_cellHasNoValue ready input⟩
      exact hlink f later (by rw [hf])
    | handleLoad g => exact ⟨fun r _ => handleLoad_ne_fault g _ r, handleLoad_ne_cellHasNoValue ready g⟩
    | handleStore g v =>
      exact ⟨fun r _ => (handleStore_ne_stop g v _ r).1, (handleStore_ne_stop g v _ .transmitNotReady).2⟩
    | readRData => exact ⟨fun r _ => (readRData_ne_stop _ r).1, (readRData_ne_stop _ .transmitNotReady).2⟩
    | hardReset => exact ⟨fun r _ => by simp [performAction, hardReset], by simp [performAction, hardReset]⟩

end Sys2Proof.Machine
end

section
/-! PROOFS of the other family, VII: frames and sweeps. The shape and the time of a sweep (spec 43_refresh.md R200,
R205), a frame put on the link (41_transport.md R140), what stays lit (R142, 43_refresh.md R203), and `REFRESH` with
no concurrent store. -/

namespace Sys2Proof.Machine

/-! ## The shape of a sweep -/

theorem waitBoundUs_append (es fs : List Event) : waitBoundUs (es ++ fs) = waitBoundUs es + waitBoundUs fs := by
  induction es with
  | nil => simp [waitBoundUs]
  | cons e rest ih =>
    cases e with
    | wait us => simp only [List.cons_append, waitBoundUs, ih, Nat.add_assoc]
    | _ => simp only [List.cons_append, waitBoundUs, ih]

theorem wirePeriods_append (es fs : List Event) : wirePeriods (es ++ fs) = wirePeriods es + wirePeriods fs := by
  induction es with
  | nil => simp [wirePeriods]
  | cons e rest ih =>
    cases e with
    | sink b => simp only [List.cons_append, wirePeriods, ih, Nat.add_assoc]
    | _ => simp only [List.cons_append, wirePeriods, ih]

/-- One turn waits for the latch pulse and for the settle delay, whatever its pattern. -/
theorem waitBoundUs_turnEvents (pad : PadPosition) (settleUs : U32) (g : GridIndex) (p : Byte) :
    waitBoundUs (turnEvents pad settleUs g p) = 1 + settleUs.toNat := rfl

theorem wirePeriods_turnEvents (pad : PadPosition) (settleUs : U32) (g : GridIndex) (p : Byte) :
    wirePeriods (turnEvents pad settleUs g p) = 24 := rfl

theorem waitBoundUs_sweepEvents (pad : PadPosition) (settleUs : U32) (pats : GridIndex → Byte) :
    waitBoundUs (sweepEvents pad settleUs pats) = 9 * (1 + settleUs.toNat) := by
  have turns (gs : List GridIndex) :
      waitBoundUs (gs.flatMap fun g => turnEvents pad settleUs g (pats g)) = gs.length * (1 + settleUs.toNat) := by
    induction gs with
    | nil => simp [waitBoundUs]
    | cons g rest ih =>
      rw [List.flatMap_cons, waitBoundUs_append, waitBoundUs_turnEvents, ih, List.length_cons, Nat.succ_mul,
        Nat.add_comm]
  exact turns allGrids

theorem wirePeriods_sweepEvents (pad : PadPosition) (settleUs : U32) (pats : GridIndex → Byte) :
    wirePeriods (sweepEvents pad settleUs pats) = 9 * 24 := by
  have turns (gs : List GridIndex) :
      wirePeriods (gs.flatMap fun g => turnEvents pad settleUs g (pats g)) = gs.length * 24 := by
    induction gs with
    | nil => simp [wirePeriods]
    | cons g rest ih =>
      rw [List.flatMap_cons, wirePeriods_append, wirePeriods_turnEvents, ih, List.length_cons, Nat.succ_mul,
        Nat.add_comm]
  exact turns allGrids

/-- Settles O39: nine turns of seven events each, alike for every pattern. -/
theorem sweepsHaveOneShape : Obligations.SweepsHaveOneShape := by
  unfold Obligations.SweepsHaveOneShape
  exact fun pad settleUs pats => ⟨length_sweepEvents pad settleUs pats,
    waitBoundUs_sweepEvents pad settleUs pats, wirePeriods_sweepEvents pad settleUs pats⟩

/-- Settles O58: 9 * 1501 µs of waits, and 216 periods of a 2 MHz clock. -/
theorem defaultSweepTakesAtLeast13617Us : Obligations.DefaultSweepTakesAtLeast13617Us := by
  unfold Obligations.DefaultSweepTakesAtLeast13617Us
  intro p pad pats
  rw [timeBoundUs, waitBoundUs_sweepEvents, wirePeriods_sweepEvents]
  simp [defaultCfg]

/-! ## A frame on the link -/

theorem exec_frameDisplay (g : GridIndex) (seg : SegmentPattern) (s : State) :
    exec (.frameDisplay g seg) s = transmit (packFrame s.params.framePad 0#3 (gridMask g) seg) s := rfl

theorem exec_frameCmd (cmd : CommandCode) (s : State) :
    exec (.frameCmd cmd) s = transmit (packFrame s.params.framePad cmd 0#9 0#8) s := rfl

theorem transmit_packFrame_ready (cmd : CommandCode) (mask : GridMask) (seg : SegmentPattern) {s : State}
    (ho : s.txOwned = true) (hlow : s.latch = .low) :
    transmit (packFrame s.params.framePad cmd mask seg) s = .next { s with
      trace := s.trace ++ frameEvents (packFrame s.params.framePad cmd mask seg)
      chipOut := packWord cmd mask seg
      phase := s.scan.map fun _ => .latchLo } := by
  rw [transmit_ready _ ho hlow, pulse_packFrame_of_low _ _ _ hlow]

theorem transmit_not_ready (f : Frame) {s : State} (h : s.txOwned = false ∨ s.latch ≠ .low) :
    transmit f s = .fault .transmitNotReady := by
  rw [transmit, if_neg]
  rintro ⟨ho, hlow⟩
  rcases h with h | h
  · rw [ho] at h
    cases h
  · exact h hlow

/-- Settles O41: both frame instructions are `TRANSMIT` of their frame, whose precondition decides. -/
theorem wireFramesAreTransmitted : Obligations.WireFramesAreTransmitted := by
  unfold Obligations.WireFramesAreTransmitted
  intro s g seg cmd
  rw [exec_frameDisplay, exec_frameCmd]
  exact ⟨fun ho hlow => ⟨transmit_packFrame_ready _ _ _ ho hlow, transmit_packFrame_ready _ _ _ ho hlow⟩,
    fun h => ⟨transmit_not_ready _ h, transmit_not_ready _ h⟩⟩

/-! ## `REFRESH` -/

/-- Settles O38: in `INIT` the request is a sweep and its answer. -/
theorem refreshSweepsTheNineGrids : Obligations.RefreshSweepsTheNineGrids := by
  unfold Obligations.RefreshSweepsTheNineGrids
  intro s hm
  refine ⟨fun cfg pats hl ho hlow hp => ?_, requestsNeedInit .refresh s rfl (by simp) hm⟩
  show execRefresh s = _
  rw [execRefresh, whenInit_init _ _ hl, sweep_quiet .admits cfg.settleUs hm ho hlow hp]
  exact respond_quiet .admits .ok none hm

/-! ## What stays lit -/

/-- The last grid's word stays on the chip. Spec 41_transport.md R142. -/
theorem sweepGrids_chipOut {gate : Gate} {settleUs : U32} {gs : List GridIndex} {g : GridIndex} {s t : State}
    (h : sweepGrids gate settleUs (gs ++ [g]) s = .next t) : ∃ p, t.chipOut = packWord 0#3 (gridMask g) p := by
  induction gs generalizing s with
  | nil =>
    obtain ⟨u, hu, ht⟩ := andThen_eq_next.1 h
    cases ht
    obtain ⟨p, -, -, -, rfl⟩ := sweepGrid_next hu
    exact ⟨p, unframe_packFrame _ _ _ _⟩
  | cons x rest ih =>
    obtain ⟨u, -, ht⟩ := andThen_eq_next.1 h
    exact ih ht

theorem exec_refresh_chipOut {s t : State} {cfg : DriverConfig} (hl : s.life = .init cfg)
    (h : exec .refresh s = .next t) : ∃ p, t.chipOut = packWord 0#3 (gridMask 8) p := by
  rw [show exec .refresh s = execRefresh s from rfl, execRefresh, whenInit_init _ _ hl] at h
  obtain ⟨u, hu, ht⟩ := andThen_eq_next.1 h
  obtain ⟨p, hp⟩ := sweepGrids_chipOut (gs := [0, 1, 2, 3, 4, 5, 6, 7]) (g := 8) hu
  rw [respond_next ht]
  exact ⟨p, hp⟩

theorem exec_sendCommand_chipOut {c : Byte} {s t : State} {cfg : DriverConfig} (hl : s.life = .init cfg)
    (hc : c.toNat ≤ 7) (h : exec (.sendCommand c) s = .next t) : ∃ cmd, t.chipOut = packWord cmd 0#9 0#8 := by
  rw [show exec (.sendCommand c) s = execSendCommand c s from rfl, execSendCommand, whenInit_init _ _ hl,
    commandOperand_eq_setWidth hc] at h
  obtain ⟨u, hu, ht⟩ := andThen_eq_next.1 h
  obtain ⟨-, -, rfl⟩ := transmit_next hu
  rw [respond_next ht]
  exact ⟨_, unframe_packFrame _ _ _ _⟩

theorem gridEnergized_packWord (cmd : CommandCode) (mask : GridMask) (seg : SegmentPattern) (g : GridIndex) :
    gridEnergized (packWord cmd mask seg) g = mask.getLsbD (8 - g.val) := by
  rw [gridEnergized, wordMask_packWord]

theorem eq_eight_of_gridMask : ∀ {g : GridIndex}, (gridMask 8).getLsbD (8 - g.val) = true → g = 8 := by
  decide

/-- Settles O42: after a sweep the mask on the chip is grid 8's, and after a command it is zero. -/
theorem onlyGridEightStaysLit : Obligations.OnlyGridEightStaysLit := by
  unfold Obligations.OnlyGridEightStaysLit
  intro cfg s t c g seg hl
  refine ⟨fun h hlit => ?_, fun hc h => ?_⟩
  · obtain ⟨p, hp⟩ := exec_refresh_chipOut hl h
    rw [hp, displayLit, gridEnergized_packWord, Bool.and_eq_true] at hlit
    exact eq_eight_of_gridMask hlit.1
  · obtain ⟨cmd, hcmd⟩ := exec_sendCommand_chipOut hl hc h
    rw [hcmd, displayLit, gridEnergized_packWord, BitVec.getLsbD_zero, Bool.false_and]

end Sys2Proof.Machine
end

section
/-! PROOFS of the other family, VIII: cells under the concurrent mutator (spec 20_memory.md R66, R70, R72). Where
stores are permitted every interleaving point is passed, so a request runs with the stores of its points folded in. -/

namespace Sys2Proof.Machine

/-! ## The memory after some points -/

theorem bufAfterTurns_zero (s : State) : s.bufAfterTurns 0 = s.buf := rfl

/-- The points after the first `j` are the points of a state past them. -/
theorem bufAfterTurns_add {s u : State} {j : Nat} (hb : u.buf = s.bufAfterTurns j)
    (hm : u.mutator = s.mutator.drop j) (k : Nat) : u.bufAfterTurns k = s.bufAfterTurns (j + k) := by
  rw [State.bufAfterTurns, State.bufAfterTurns, hb, hm, List.take_add, List.flatten_append, afterStores_append]
  rfl

theorem flatten_take_one {α : Type} (l : List (List α)) : (l.take 1).flatten = l.headD [] := by
  cases l <;> simp

/-- One point more. -/
theorem afterTurn_of_bufAfterTurns {s u : State} {k : Nat} (hb : u.buf = s.bufAfterTurns k)
    (hm : u.mutator = s.mutator.drop k) :
    u.afterTurn = { u with buf := s.bufAfterTurns (k + 1), mutator := s.mutator.drop (k + 1) } := by
  rw [← bufAfterTurns_add hb hm, State.bufAfterTurns, flatten_take_one, ← List.tail_drop, ← hm]
  rfl

theorem afterTurn_eq (s : State) :
    s.afterTurn = { s with buf := s.bufAfterTurns 1, mutator := s.mutator.drop 1 } :=
  afterTurn_of_bufAfterTurns (bufAfterTurns_zero s).symm rfl

/-! ## Operations where stores are permitted -/

section
variable {gate : Gate} {s : State} (hs : s.storesAllowed gate)
include hs

theorem cellStore_allowed (g : GridIndex) (v : Byte) : cellStore gate g v s = .next (s.afterTurn.setCell g v) := by
  simp only [cellStore, mutatorTurn_allowed hs, andThen_next]

theorem cellLoad_allowed {g : GridIndex} {v : Byte} (hv : s.afterTurn.buf.load g.val = some v) :
    cellLoad gate g s = .next (v, s.afterTurn) := by
  simp only [cellLoad, mutatorTurn_allowed hs, andThen_next, hv]

theorem respond_allowed (st : Status) (rd : Option Byte) :
    respond gate st rd s = .next (s.afterTurn.answer st rd) := by
  simp only [respond, mutatorTurn_allowed hs, andThen_next]

theorem storeEach_goes_on (v : Byte) (gs : List GridIndex) : ∃ t, storeEach gate v gs s = .next t := by
  induction gs generalizing s with
  | nil => exact ⟨s, rfl⟩
  | cons g rest ih =>
    rw [storeEach_allowed v g rest hs]
    exact ih hs

end

theorem BufOnly.storesAllowed {gate : Gate} {s t : State} (h : BufOnly s t) (hs : s.storesAllowed gate) :
    t.storesAllowed gate := by
  rw [h.eq]
  exact hs

theorem storesAllowed_admits {s : State} {cfg : DriverConfig} (hc : s.params.concurrentMutator = true)
    (hl : s.life = .init cfg) : s.storesAllowed .admits := ⟨rfl, ⟨cfg, hl⟩, hc⟩

/-! ## A sweep under concurrent stores -/

/-- One grid's turn carries what its cell holds after the stores of its point. -/
theorem sweepGrid_allowed {gate : Gate} (settleUs : U32) {g : GridIndex} {p : Byte} {s : State}
    (hs : s.storesAllowed gate) (ho : s.txOwned = true) (hlow : s.latch = .low)
    (hp : (s.bufAfterTurns 1).load g.val = some p) :
    sweepGrid gate settleUs g s = .next { s with
      buf := s.bufAfterTurns 1
      mutator := s.mutator.drop 1
      scan := some g
      phase := some .settle
      trace := s.trace ++ turnEvents s.params.framePad settleUs g p
      chipOut := packWord 0#3 (gridMask g) p } := by
  have hp : s.afterTurn.buf.load g.val = some p := by rwa [afterTurn_eq]
  have sampled : cellLoad gate g (s.startTurn g) = .next (p, s.afterTurn.startTurn g) :=
    cellLoad_allowed (s := s.startTurn g) hs hp
  have sent := transmit_packFrame_ready 0#3 (gridMask g) p (s := (s.afterTurn.startTurn g).setPhase .send) ho hlow
  simp only [setPhase_params, startTurn_params, afterTurn_eq] at sent sampled
  simp only [sweepGrid, sampled, andThen_next, sent]
  refine congrArg Host.Outcome.next ?_
  ext <;> simp [turnEvents]

/-- The turns of grids up to a last one `g`, the grid at place `j` sampled after the stores of `j + 1` points. -/
theorem sweepGrids_allowed {gate : Gate} (settleUs : U32) (pats : GridIndex → Byte) (gs : List GridIndex)
    (g : GridIndex) {s : State} (hs : s.storesAllowed gate) (ho : s.txOwned = true) (hlow : s.latch = .low)
    (hp : ∀ j (hj : j < (gs ++ [g]).length),
      (s.bufAfterTurns (j + 1)).load (gs ++ [g])[j].val = some (pats (gs ++ [g])[j])) :
    sweepGrids gate settleUs (gs ++ [g]) s = .next { s with
      buf := s.bufAfterTurns (gs.length + 1)
      mutator := s.mutator.drop (gs.length + 1)
      scan := some g
      phase := some .settle
      trace := s.trace ++ (gs ++ [g]).flatMap fun x => turnEvents s.params.framePad settleUs x (pats x)
      chipOut := packWord 0#3 (gridMask g) (pats g) } := by
  induction gs generalizing s with
  | nil =>
    have sampled : (s.bufAfterTurns 1).load g.val = some (pats g) := hp 0 (Nat.zero_lt_one)
    simp [sweepGrids, sweepGrid_allowed settleUs hs ho hlow sampled]
  | cons x rest ih =>
    have sampled : (s.bufAfterTurns 1).load x.val = some (pats x) := hp 0 (Nat.succ_pos _)
    rw [List.cons_append, sweepGrids, sweepGrid_allowed settleUs hs ho hlow sampled, andThen_next]
    have later (k : Nat) {u : State} (hb : u.buf = s.bufAfterTurns 1) (hm : u.mutator = s.mutator.drop 1) :
        u.bufAfterTurns k = s.bufAfterTurns (k + 1) := by rw [bufAfterTurns_add hb hm, Nat.add_comm]
    refine (ih ?_ ?_ ?_ fun j hj => ?_).trans ?_
    · exact hs
    · exact ho
    · exact hlow
    · rw [later (j + 1) rfl rfl]
      exact hp (j + 1) (Nat.succ_lt_succ hj)
    · rw [later (rest.length + 1) rfl rfl]
      simp [Nat.add_comm]

/-- Settles O43: grid `g` is the grid at place `g` of the sweep, and the answer's point is the tenth. -/
theorem eachGridCarriesItsSample : Obligations.EachGridCarriesItsSample := by
  unfold Obligations.EachGridCarriesItsSample
  intro cfg pats s hc hl ho hlow hp
  have hs := storesAllowed_admits hc hl
  have place : ∀ j (hj : j < allGrids.length), allGrids[j].val = j := by decide
  have sample {j : Nat} {g : GridIndex} (hg : g.val = j) :
      (s.bufAfterTurns (j + 1)).load g.val = some (pats g) := hg ▸ hp g
  have swept := sweepGrids_allowed cfg.settleUs pats [0, 1, 2, 3, 4, 5, 6, 7] 8 hs ho hlow fun j hj =>
    sample (place j hj)
  show execRefresh s = _
  rw [execRefresh, whenInit_init _ _ hl, sweep, show allGrids = [0, 1, 2, 3, 4, 5, 6, 7] ++ [8] from rfl, swept,
    andThen_next]
  refine (respond_allowed ?_ .ok none).trans ?_
  · exact hs
  rw [afterTurn_of_bufAfterTurns (s := s) (k := 9) rfl rfl]
  rfl

/-! ## One access -/

/-- Two memories that agree at an address still do after the same stores. -/
theorem load_afterStores_congr {m n : Memory} {a : Nat} (h : m.load a = n.load a) (ws : List ConcurrentStore) :
    (m.afterStores ws).load a = (n.afterStores ws).load a := by
  induction ws generalizing m n with
  | nil => exact h
  | cons w rest ih =>
    refine ih ?_
    rw [load_store, load_store, h]

/-- Concurrent stores go to the nine cells only. -/
theorem load_afterStores_of_nine_le (m : Memory) (ws : List ConcurrentStore) {a : Nat} (h : 9 ≤ a) :
    (m.afterStores ws).load a = m.load a := by
  induction ws generalizing m with
  | nil => rfl
  | cons w rest ih =>
    rw [afterStores_cons, ih, load_store_other _ _ (by omega)]

theorem exec_readSegments_allowed {g : BitVec 4} {v : Byte} {s : State} {cfg : DriverConfig}
    (hs : s.storesAllowed .admits) (hl : s.life = .init cfg) (hg : g.toNat < 9)
    (hv : (s.bufAfterTurns 1).load g.toNat = some v) :
    exec (.readSegments g) s = .next (State.answer { s with
      buf := s.bufAfterTurns 2, mutator := s.mutator.drop 2 } .ok (some v)) := by
  have hv : s.afterTurn.buf.load g.toNat = some v := by rwa [afterTurn_eq]
  show whenInit _ _ s = _
  rw [whenInit_init _ _ hl, whenGrid_in _ _ s hg, cellLoad_allowed hs hv, andThen_next,
    respond_allowed (s := s.afterTurn) hs, afterTurn_eq s, afterTurn_of_bufAfterTurns (s := s) (k := 1) rfl rfl]

theorem exec_writeSegments_allowed {g : BitVec 4} (p : Byte) {s : State} {cfg : DriverConfig}
    (hs : s.storesAllowed .admits) (hl : s.life = .init cfg) (hg : g.toNat < 9) :
    exec (.writeSegments g p) s = .next (State.answer { s with
      buf := ((s.bufAfterTurns 1).store g.toNat p).afterStores ((s.mutator.drop 1).headD [])
      mutator := s.mutator.drop 2 } .ok none) := by
  show whenInit _ _ s = _
  rw [whenInit_init _ _ hl, whenGrid_in _ _ s hg, cellStore_allowed hs, andThen_next,
    respond_allowed (s := s.afterTurn.setCell ⟨g.toNat, hg⟩ p) hs, afterTurn_eq s]
  simp only [State.afterTurn, State.setCell, List.tail_drop]

/-! ## Every cell -/

/-- A store to grids leaves the other cells to the concurrent stores. -/
theorem storeEach_load_other {gate : Gate} {v : Byte} {gs : List GridIndex} {s t : State}
    (h : storeEach gate v gs s = .next t) {a : Nat} (ha : ∀ g ∈ gs, g.val ≠ a) :
    t.buf.load a = (s.bufAfterTurns gs.length).load a := by
  induction gs generalizing s with
  | nil =>
    cases h
    rfl
  | cons g rest ih =>
    obtain ⟨u, hu, ht⟩ := andThen_eq_next.1 h
    rw [ih ht fun x hx => ha x (List.mem_cons_of_mem _ hx), List.length_cons, Nat.add_comm,
      ← bufAfterTurns_add (u := s.afterTurn) (by rw [afterTurn_eq]) (by rw [afterTurn_eq]), cellStore_next hu]
    exact load_afterStores_congr (load_store_other _ v (ha g List.mem_cons_self).symm) _

/-- The cell of a grid ends as if stored right after the point of its store, whatever the cell held before. -/
theorem storeEach_load {gate : Gate} {v : Byte} {pre post : List GridIndex} {g : GridIndex} {s t : State}
    (h : storeEach gate v (pre ++ g :: post) s = .next t) (hg : ∀ x ∈ post, x.val ≠ g.val) :
    t.buf.load g.val = ((s.buf.store g.val v).afterStores
      ((s.mutator.drop (pre.length + 1)).take post.length).flatten).load g.val := by
  induction pre generalizing s with
  | nil =>
    obtain ⟨u, hu, ht⟩ := andThen_eq_next.1 h
    rw [storeEach_load_other ht hg, State.bufAfterTurns, cellStore_next hu, afterTurn_eq]
    exact load_afterStores_congr (by simp) _
  | cons x rest ih =>
    obtain ⟨u, hu, ht⟩ := andThen_eq_next.1 h
    rw [ih ht, cellStore_next hu, afterTurn_eq]
    simp only [setCell_mutator, List.drop_drop, List.length_cons]
    rw [Nat.add_comm 1]
    exact load_afterStores_congr (by simp) _

theorem flatten_take_succ {α : Type} (l : List (List α)) (n : Nat) :
    (l.take (n + 1)).flatten = (l.take n).flatten ++ (l.drop n).headD [] := by
  rw [List.take_add, List.flatten_append, flatten_take_one]

/-- Grid `g` is the grid at place `g` of the ascending order, and of no later place. Spec 20_memory.md R66. -/
theorem allGrids_split : ∀ g : GridIndex, ∃ pre post, allGrids = pre ++ g :: post ∧ pre.length = g.val ∧
    post.length = 8 - g.val ∧ ∀ x ∈ post, x.val ≠ g.val := by
  intro g
  refine ⟨allGrids.take g.val, allGrids.drop (g.val + 1), ?_⟩
  revert g
  decide

/-- The nine stores and the answer: cell `g` is as if stored right after `g + 1` of the ten points. -/
theorem storeEach_afterTurn_load {gate : Gate} {p : Byte} {s u : State}
    (hu : storeEach gate p allGrids s = .next u) (g : GridIndex) :
    u.afterTurn.buf.load g.val =
      ((s.buf.store g.val p).afterStores ((s.mutator.take 10).drop (g.val + 1)).flatten).load g.val := by
  have hm : u.mutator = s.mutator.drop 9 := storeEach_mutator hu
  obtain ⟨pre, post, hsplit, hpre, hpost, hother⟩ := allGrids_split g
  rw [hsplit] at hu
  have cell := storeEach_load hu hother
  rw [hpre, hpost] at cell
  have points : (s.mutator.take 10).drop (g.val + 1) = (s.mutator.drop (g.val + 1)).take (8 - g.val + 1) := by
    rw [List.drop_take]
    congr 1
    omega
  have answer : s.mutator.drop 9 = (s.mutator.drop (g.val + 1)).drop (8 - g.val) := by
    rw [List.drop_drop]
    congr 1
    omega
  rw [points, flatten_take_succ, ← answer, afterStores_append, ← hm]
  exact load_afterStores_congr cell _

theorem exec_fill_allowed {p : Byte} {s u : State} {cfg : DriverConfig} (hl : s.life = .init cfg)
    (hu : storeEach .admits p allGrids s = .next u) (allowed : u.storesAllowed .admits) :
    exec (.fill p) s = .next (u.afterTurn.answer .ok none) := by
  show execFill p s = _
  rw [execFill, whenInit_init _ _ hl, hu]
  exact respond_allowed allowed .ok none

/-- The empty text stores no more than its clear. -/
theorem exec_writeString_nil_allowed {s u : State} {cfg : DriverConfig} (hl : s.life = .init cfg)
    (hu : storeEach .admits blankPattern allGrids s = .next u) (allowed : u.storesAllowed .admits) :
    exec (.writeString []) s = .next (u.afterTurn.answer .ok none) := by
  show execWriteString [] s = _
  rw [execWriteString, whenInit_init _ _ hl, hu]
  exact respond_allowed (s := { u with cur := some 0 }) allowed .ok none

/-- Settles O44: an access takes one point before it, and the answer one; the ascending order gives grid `g` its
store at point `g`. -/
theorem cellAccessesFallInOneOrder : Obligations.CellAccessesFallInOneOrder := by
  unfold Obligations.CellAccessesFallInOneOrder
  refine ⟨fun cfg g p v s hc hl hg => ?_, fun cfg p i s hc hl hi => ?_⟩
  · have hs := storesAllowed_admits hc hl
    have hg : g.toNat < 9 := Nat.lt_succ_of_le hg
    exact ⟨exec_readSegments_allowed hs hl hg, exec_writeSegments_allowed p hs hl hg⟩
  · have hs := storesAllowed_admits hc hl
    obtain ⟨u, hu⟩ := storeEach_goes_on hs p allGrids
    have stored := storeEach_bufOnly hu
    have allowed := stored.storesAllowed hs
    have run : exec i s = .next (u.afterTurn.answer .ok none) := by
      obtain rfl | ⟨rfl, rfl | rfl⟩ := hi
      · exact exec_fill_allowed hl hu allowed
      · exact (exec_clear s).trans (exec_fill_allowed hl hu allowed)
      · exact exec_writeString_nil_allowed hl hu allowed
    have mutator : u.afterTurn.mutator = s.mutator.drop 10 := by
      rw [State.afterTurn, storeEach_mutator hu, List.tail_drop]
      rfl
    refine ⟨_, run, ?_, storeEach_afterTurn_load hu, fun a ha => ?_⟩
    · rw [← mutator, State.afterTurn, stored.eq]
      rfl
    · have other := storeEach_load_other hu (a := a) fun g _ => by omega
      rw [State.bufAfterTurns, load_afterStores_of_nine_le _ _ ha] at other
      exact (load_afterStores_of_nine_le _ _ ha).trans other

/-! ## A store between the two accesses of a point -/

theorem renderText_glyph_allowed {c : Byte} {sym : Symbol} (hc : charClass c = .glyph sym) (rest : List Byte)
    {cur : Nat} (hcur : cur < 9) {s : State} (hs : s.storesAllowed .admits) :
    renderText (c :: rest) cur s = renderText rest (cur + 1)
      (State.setCell { s.afterTurn with cur := some cur } ⟨cur, hcur⟩ (segPattern s.params.segLut sym)) := by
  rw [renderText_glyph_eq hc rest hcur, cellStore_allowed (s := { s with cur := some cur }) hs]
  rfl

theorem renderText_point_allowed (rest : List Byte) {cur : Nat} (hcur : cur + 1 < 9) {s : State}
    (hs : s.storesAllowed .admits) {p : Byte} (hp : s.afterTurn.buf.load cur = some p) :
    renderText (0x2E#8 :: rest) (cur + 1) s = renderText rest (cur + 1)
      (State.setCell { s.afterTurn.afterTurn with cur := some (cur + 1) } ⟨cur, Nat.lt_of_succ_lt hcur⟩
        (p ||| dotPattern)) := by
  have loaded := cellLoad_allowed (s := { s with cur := some (cur + 1) }) (g := ⟨cur, Nat.lt_of_succ_lt hcur⟩) hs hp
  rw [renderText_point_eq rest hcur, loaded, andThen_next,
    cellStore_allowed (s := State.afterTurn { s with cur := some (cur + 1) }) hs]
  rfl

/-- The text `1.` from a cleared buffer, with one store between the two accesses of its `.`. -/
theorem renderText_one_point {v : Byte} {s : State} (hs : s.storesAllowed .admits)
    (hm : s.mutator = [[], [], [⟨0, v⟩]]) :
    ∃ t, renderText [0x31#8, 0x2E#8] 0 s = .next t ∧ t.mutator = [] ∧
      t.buf.load 0 = some (s.params.segLut.d1 ||| dotPattern) := by
  have glyph : charClass 0x31#8 = .glyph .d1 := rfl
  rw [renderText_glyph_allowed glyph [0x2E#8] (cur := 0) (by decide) hs,
    renderText_point_allowed [] (cur := 0) (by decide) (p := s.params.segLut.d1) ?allowed ?loaded]
  case allowed => exact hs
  case loaded => simp [State.afterTurn, hm, segPattern]
  exact ⟨_, rfl, by simp [State.afterTurn, hm], by simp⟩

/-- Settles O45: the concurrent store falls on the cell after the `.` has loaded it, and the store of the `.` goes
over it. -/
theorem storeBetweenReadAndWriteOfPointIsLost : Obligations.StoreBetweenReadAndWriteOfPointIsLost := by
  unfold Obligations.StoreBetweenReadAndWriteOfPointIsLost
  intro cfg v s hc hl hm
  have hs := storesAllowed_admits hc hl
  obtain ⟨u, hu⟩ := storeEach_goes_on hs blankPattern allGrids
  have cleared := storeEach_bufOnly hu
  have mutator : u.mutator = [[], [], [⟨0, v⟩]] := by
    rw [storeEach_mutator hu, hm]
    rfl
  obtain ⟨w, hw, hlast, hload⟩ := renderText_one_point (cleared.storesAllowed hs) mutator
  have lut : u.params = s.params := by rw [cleared.eq]
  have run : exec (.writeString [0x31#8, 0x2E#8]) s = .next (w.answer .ok none) := by
    show execWriteString _ s = _
    rw [execWriteString, whenInit_init _ _ hl, hu, andThen_next, hw]
    exact respond_quiet .admits .ok none hlast
  exact ⟨_, run, hlast, rfl, lut ▸ hload⟩

end Sys2Proof.Machine
end
